-- ==== Sys2Proof/Word.lean ====
section
/-! DEFINITION. The words of the block: bytes and timestamps (spec/00_scope.md R19, spec/20_memory.md R72). -/

namespace Sys2Proof

/-- One byte: every register but `last_edge`, every ring datum and every wire field is one (20_memory R72, R77). -/
abbrev Byte := BitVec 8

/-- A value of the microsecond counter. The container has 64 bits, the larger of the two widths of 00_scope R14; with a 32-bit
counter only the low 32 bits are in use (log 9). -/
abbrev Stamp := BitVec 64

end Sys2Proof
end

