-- ==== Sys2Proof/Config.lean ====
section
/-! DEFINITION. The configuration record `Cfg` (spec/00_scope.md R12 to R17) and the free values: the constants the spec leaves open
without naming a parameter that a record of plain data could hold. -/

namespace Sys2Proof

/-- `TW`, the width of the microsecond timestamp: the source's `u32|u64` (00_scope R14). -/
inductive TimeWidth where
  | w32
  | w64
deriving DecidableEq, Repr

/-- The number of bits `TW` stands for (00_scope R14). -/
def TimeWidth.bits : TimeWidth → Nat
  | .w32 => 32
  | .w64 => 64

/-- `BIT_ORDER`, the order in which the eight bits of a byte travel (00_scope R15, 20_memory R74). -/
inductive BitOrder where
  | msbFirst
  | lsbFirst
deriving DecidableEq, Repr

/-- The configuration record `Cfg`: "resolved once at construction", written by no operation (00_scope R12 to R17, 20_memory R90).
`PAYLOAD_ORDER` is fixed to `FORWARD` by the spec (R15) and `CHK`, a function, is `Config.chk` below. -/
structure Cfg where
  /-- `START_PERIOD`, microseconds (R12) -/
  startPeriod : Nat
  /-- `ONE_PERIOD` (R12) -/
  onePeriod : Nat
  /-- `ZERO_PERIOD` (R12) -/
  zeroPeriod : Nat
  /-- `TOL_NEG`, the tolerance below a reference period (R12) -/
  tolNeg : Nat
  /-- `TOL_POS`, the tolerance above a reference period (R12) -/
  tolPos : Nat
  /-- `START_MAX_ERROR`, the widened upper tolerance of START, at least `TOL_POS` (R12; checked by `Cfg.wf`) -/
  startMaxError : Nat
  /-- `CAL_ERR_PCT`, oscillator-calibration error percentage (R12) -/
  calErrPct : Nat
  /-- `HIGH_DURATION`, the fixed HIGH segment of a pulse, transmitter side only (R12) -/
  highDuration : Nat
  /-- `NUM_PREAMBLE_BYTES`, transmitter side only (R12) -/
  numPreambleBytes : Nat
  /-- `BAND_CLOSED`: is a period equal to a threshold inside the band (R13) -/
  bandClosed : Bool
  /-- `TW` (R14) -/
  tw : TimeWidth
  /-- `CAP`, the ring's capacity in bytes (R14) -/
  cap : Nat
  /-- `BIT_ORDER` (R15) -/
  bitOrder : BitOrder
  /-- `EC_EN`: an error-check byte is present (R15) -/
  ecEn : Bool
  /-- `SQ_EN`: a sequence byte is present (R15) -/
  sqEn : Bool
  /-- `TMO_EN`: the receive-side timeout is enabled (R17) -/
  tmoEn : Bool
  /-- `TX_EOT_NOISE`: the transmitter emits a noise burst (R17) -/
  txEotNoise : Bool
  /-- `NOISE_BURST`: the periods of the burst, each outside all three bands (R17; checked by `Cfg.wf`) -/
  noiseBurst : List Nat
  /-- `OVF_CONSUMES`: a frame reported `BUFFER_OVERFLOW` is removed from the ring (R17) -/
  ovfConsumes : Bool
deriving DecidableEq, Repr

/-- DESIGN CHOICE, unsafe (log 1): the spec gives no numbers; this is its own test configuration T1 (95_test_vectors section 1.1), which
`State.reset` carries. Every statement quantifies over all configurations. -/
def Cfg.t1 : Cfg where
  startPeriod := 6000
  onePeriod := 4000
  zeroPeriod := 3000
  tolNeg := 200
  tolPos := 200
  startMaxError := 400
  calErrPct := 0
  highDuration := 2000
  numPreambleBytes := 2
  bandClosed := true
  tw := .w32
  cap := 16
  bitOrder := .msbFirst
  ecEn := true
  sqEn := true
  tmoEn := true
  txEotNoise := false
  noiseBurst := []
  ovfConsumes := true

/-- `CHK(seed, payload)`, the error-detection code: an uninterpreted total function of its two arguments (00_scope R16,
93_implementation_defined U12; log 4). It has no body, so nothing can be proved of its values. -/
opaque Config.chk : Byte → List Byte → Byte

/-- The byte that ring address `addr` holds when nothing has written it since reset number `epoch` (10_state R45, 70_reset R300,
93_implementation_defined U1; log 3). It has no body, so nothing can be proved of its values. -/
opaque Config.unwrittenByte : (epoch addr : Nat) → Byte

end Sys2Proof
end

