-- ==== Sys2Proof/Syntax.lean ====
section
/-! DEFINITION. The operations that have an encoding: one constructor for each row of spec/opcode_table.json
(spec/30_encoding.md R118, R131), the ports they arrive at, and the four symbols. -/

namespace Sys2Proof

/-- The four classes the discriminator gives a period (40_pulse_discriminator R140). -/
inductive Symbol where
  | start
  | one
  | zero
  | noise
deriving DecidableEq, Repr

/-- Where an operation arrives: the edge port (format `EVT`), the symbol code between discriminator and assembler (`SYM`), the foreground
command port (`CMD`) (30_encoding R100). -/
inductive Port where
  | evt
  | sym
  | cmd
deriving DecidableEq, Repr

/-- The operations of the opcode table. A command carries its `arg` byte although only `RDB` uses it (30_encoding R115), so that no bit of
a command word is dropped. `TMO` takes its time from the `now` bus, not from its word (R115). -/
inductive Instr where
  /-- `EDGE t`: a falling edge at time `t` (42_frame_assembler R181) -/
  | edge (t : Stamp)
  /-- `SYM.START` (R184) -/
  | symStart
  /-- `SYM.ONE` (R185) -/
  | symOne
  /-- `SYM.ZERO` (R186) -/
  | symZero
  /-- `SYM.NOISE` (R187) -/
  | symNoise
  /-- `NOP` (43_ring_buffer R226) -/
  | nop (arg : Byte)
  /-- `STAT` (R221) -/
  | stat (arg : Byte)
  /-- `ACQ` (R222) -/
  | acq (arg : Byte)
  /-- `RDB k` (R223) -/
  | rdb (k : Byte)
  /-- `REL` (R224) -/
  | rel (arg : Byte)
  /-- `TMO` (42_frame_assembler R198) -/
  | tmo (arg : Byte)
  /-- `RST` (70_reset_and_hazards R300) -/
  | rst (arg : Byte)
deriving DecidableEq, Repr

/-- The port an operation arrives at (30_encoding R118). -/
def Instr.port : Instr → Port
  | .edge _ => .evt
  | .symStart => .sym
  | .symOne => .sym
  | .symZero => .sym
  | .symNoise => .sym
  | .nop _ => .cmd
  | .stat _ => .cmd
  | .acq _ => .cmd
  | .rdb _ => .cmd
  | .rel _ => .cmd
  | .tmo _ => .cmd
  | .rst _ => .cmd

end Sys2Proof
end

