-- ==== Sys2Proof/Machine/Thresholds.lean ====
section
/-! DEFINITION. The quantities derived from the configuration when it is built: the six thresholds of the discriminator
(spec/40_pulse_discriminator.md R142), `MAX_LEN` and `MIN_LEN` (spec/00_scope.md R14, R15). -/

namespace Sys2Proof

/-- `scale(P) = floor(P * CAL_ERR_PCT / 100)` (40_pulse_discriminator R142). -/
def Cfg.scale (c : Cfg) (p : Nat) : Nat := p * c.calErrPct / 100

/-- `START_LO` (R142). -/
def Cfg.startLo (c : Cfg) : Nat := c.startPeriod - (c.tolNeg + c.scale c.startPeriod)
/-- `START_HI` (R142): the upper side uses `START_MAX_ERROR`. -/
def Cfg.startHi (c : Cfg) : Nat := c.startPeriod + (c.startMaxError + c.scale c.startPeriod)
/-- `ONE_LO` (R142). -/
def Cfg.oneLo (c : Cfg) : Nat := c.onePeriod - (c.tolNeg + c.scale c.onePeriod)
/-- `ONE_HI` (R142). -/
def Cfg.oneHi (c : Cfg) : Nat := c.onePeriod + (c.tolPos + c.scale c.onePeriod)
/-- `ZERO_LO` (R142). -/
def Cfg.zeroLo (c : Cfg) : Nat := c.zeroPeriod - (c.tolNeg + c.scale c.zeroPeriod)
/-- `ZERO_HI` (R142). -/
def Cfg.zeroHi (c : Cfg) : Nat := c.zeroPeriod + (c.tolPos + c.scale c.zeroPeriod)

/-- `MAX_LEN = CAP - 2`, the largest frame length the ring can hold (43_ring_buffer R229). -/
def Cfg.maxLen (c : Cfg) : Nat := c.cap - 2

/-- The bytes of a frame between its length byte and its payload, `EC_EN + SQ_EN` (30_encoding R105). -/
def Cfg.headerLen (c : Cfg) : Nat := c.ecEn.toNat + c.sqEn.toNat

/-- `MIN_LEN = EC_EN + SQ_EN + 1` (00_scope R15). -/
def Cfg.minLen (c : Cfg) : Nat := c.headerLen + 1

/-- `t mod 2^TW`: the value as the counter, the `now` bus and `last_edge` hold it (10_state R31; log 9). -/
def Cfg.stamp (c : Cfg) (t : Stamp) : Stamp := BitVec.ofNat 64 (t.toNat % 2 ^ c.tw.bits)

end Sys2Proof
end

