-- ==== Sys2Proof/Machine/Discriminator.lean ====
section
/-! DEFINITION. The pulse-period discriminator, a pure function of the period and the configuration (spec/40_pulse_discriminator.md). -/

namespace Sys2Proof.Machine

/-- `in(lo, hi, p)`: both ends inside the band, or both outside, by `BAND_CLOSED` (40_pulse_discriminator R143, R149). -/
def inBand (c : Cfg) (lo hi p : Nat) : Bool :=
  if c.bandClosed then decide (lo ≤ p ∧ p ≤ hi) else decide (lo < p ∧ p < hi)

/-- `CLASSIFY p`: the bands are tested in the order START, ONE, ZERO; anything else is NOISE (R143). -/
def classify (c : Cfg) (p : Nat) : Symbol :=
  if inBand c c.startLo c.startHi p then .start
  else if inBand c c.oneLo c.oneHi p then .one
  else if inBand c c.zeroLo c.zeroHi p then .zero
  else .noise

end Sys2Proof.Machine
end

