-- ==== Sys2Proof/WellFormed.lean ====
section
/-! DEFINITION. What a configuration and an instruction must satisfy (spec/00_scope.md R12, R17, R18, spec/30_encoding.md R114). Each
condition is a check of its own; `4 <= CAP <= 256` and the others are Booleans, and "`TW` is 32 or 64" holds by the type `TimeWidth`. -/

namespace Sys2Proof

/-- `START_PERIOD > ONE_PERIOD > ZERO_PERIOD > 0` (R18). -/
def Cfg.periodsOrdered (c : Cfg) : Bool :=
  decide (c.onePeriod < c.startPeriod ∧ c.zeroPeriod < c.onePeriod ∧ 0 < c.zeroPeriod)

/-- No threshold underflows below 0 (R18). R18 writes the inequality for `ZERO_PERIOD`; the other two bands follow from it while
`CAL_ERR_PCT <= 100`, and beyond that they are checked as well, since "a threshold below 0" is refused (93_implementation_defined U16;
DEDUCED, log 17). -/
def Cfg.noUnderflow (c : Cfg) : Bool :=
  [c.startPeriod, c.onePeriod, c.zeroPeriod].all fun p => decide (c.tolNeg + c.scale p ≤ p)

/-- Every threshold is below `2^TW` (R18). -/
def Cfg.thresholdsFit (c : Cfg) : Bool :=
  [c.startLo, c.startHi, c.oneLo, c.oneHi, c.zeroLo, c.zeroHi].all fun t => decide (t < 2 ^ c.tw.bits)

/-- Each `*_LO <= *_HI` (R18). -/
def Cfg.bandsOrdered (c : Cfg) : Bool :=
  decide (c.startLo ≤ c.startHi ∧ c.oneLo ≤ c.oneHi ∧ c.zeroLo ≤ c.zeroHi)

/-- `4 <= CAP <= 256` (R18). -/
def Cfg.capInRange (c : Cfg) : Bool := decide (4 ≤ c.cap ∧ c.cap ≤ 256)

/-- `HIGH_DURATION < ZERO_PERIOD - TOL_NEG` (R18). -/
def Cfg.highFits (c : Cfg) : Bool := decide (c.highDuration < c.zeroPeriod - c.tolNeg)

/-- `START_MAX_ERROR >= TOL_POS`: the upper side of START is widened, not narrowed (R12; log 18). -/
def Cfg.startWidened (c : Cfg) : Bool := decide (c.tolPos ≤ c.startMaxError)

/-- `NOISE_BURST` is "a list of periods each outside all three bands" (R17), "each of which must classify as NOISE" (30_encoding R111). A period
that `CLASSIFY` sees has `TW` bits (40_pulse_discriminator R143; log 18). -/
def Cfg.burstIsNoise (c : Cfg) : Bool :=
  c.noiseBurst.all fun p => decide (p < 2 ^ c.tw.bits ∧ Machine.classify c p = .noise)

/-- A well-formed configuration (R18, and what R12 and R17 say of the parameters themselves; log 18). A step refuses any other
(93_implementation_defined U16). -/
def Cfg.wf (c : Cfg) : Bool :=
  c.periodsOrdered && c.noUnderflow && c.thresholdsFit && c.bandsOrdered && c.capInRange && c.highFits && c.startWidened &&
    c.burstIsNoise

/-- A well-formed instruction: the timestamp of an edge has `TW` bits (30_encoding R114). The other operands are bytes, which every
encoding admits. -/
def Instr.wf (tw : TimeWidth) : Instr → Bool
  | .edge t => decide (t.toNat < 2 ^ tw.bits)
  | .symStart => true
  | .symOne => true
  | .symZero => true
  | .symNoise => true
  | .nop _ => true
  | .stat _ => true
  | .acq _ => true
  | .rdb _ => true
  | .rel _ => true
  | .tmo _ => true
  | .rst _ => true

end Sys2Proof
end

