-- ==== Sys2Proof/Decode.lean ====
section
/-! DEFINITION. Port words to operations and back (spec/30_encoding.md R113 to R116, R119, R123). A port word is held in 65 bits, the width of
the widest format (`EVT` with `TW = 64`); `Port.width` says how many of them a format has. -/

namespace Sys2Proof

/-- The width of a port's words in bits: `SYM` 2, `CMD` 12, `EVT` `1 + TW` (30_encoding R123). -/
def Port.width (tw : TimeWidth) : Port → Nat
  | .sym => 2
  | .cmd => 12
  | .evt => 1 + tw.bits

/-- Why a port word is no operation of the opcode table. -/
inductive DecodeError where
  /-- a `CMD` word with a reserved opcode, `0x6` to `0xE` (30_encoding R119): answered `INVALID`, not refused -/
  | reserved (op : BitVec 4)
  /-- an `EVT` word whose strobe is 0: no falling edge is reported (30_encoding R114; log 10) -/
  | noStrobe
  /-- a word with a bit set above its format's width: no such word exists at the port (30_encoding R123; log 11) -/
  | overWide
deriving DecidableEq, Repr

/-- The symbol codes, 30_encoding R113. -/
def decodeSym (w : BitVec 2) : Instr :=
  if w = 0b00#2 then .symNoise
  else if w = 0b01#2 then .symZero
  else if w = 0b10#2 then .symOne
  else .symStart

/-- The command opcodes, 30_encoding R115, R116, R119. -/
def decodeCmd (op : BitVec 4) (arg : Byte) : Except DecodeError Instr :=
  if op = 0x0#4 then .ok (.nop arg)
  else if op = 0x1#4 then .ok (.stat arg)
  else if op = 0x2#4 then .ok (.acq arg)
  else if op = 0x3#4 then .ok (.rdb arg)
  else if op = 0x4#4 then .ok (.rel arg)
  else if op = 0x5#4 then .ok (.tmo arg)
  else if op = 0xF#4 then .ok (.rst arg)
  else .error (.reserved op)

/-- The timestamp field of an `EVT` word, its low `TW` bits (30_encoding R114). -/
def evtStamp (tw : TimeWidth) (w : BitVec 65) : Stamp := BitVec.ofNat 64 (w.toNat % 2 ^ tw.bits)

/-- The strobe of an `EVT` word, bit `TW` (30_encoding R114). -/
def evtStrobe (tw : TimeWidth) (w : BitVec 65) : Bool := w.getLsbD tw.bits

/-- The operation a word asks for at a port; total, rejecting by name. -/
def decode (tw : TimeWidth) (p : Port) (w : BitVec 65) : Except DecodeError Instr :=
  if w.toNat < 2 ^ p.width tw then
    match p with
    | .sym => .ok (decodeSym (w.extractLsb' 0 2))
    | .cmd => decodeCmd (w.extractLsb' 8 4) (w.extractLsb' 0 8)
    | .evt => if evtStrobe tw w then .ok (.edge (evtStamp tw w)) else .error .noStrobe
  else .error .overWide

/-- A command word: `op` in bits 11 to 8, `arg` in bits 7 to 0 (30_encoding R115). -/
def cmdWord (op : BitVec 4) (arg : Byte) : BitVec 65 := (op ++ arg).setWidth 65

/-- The word of an operation at its port (30_encoding R113 to R116). -/
def encode (tw : TimeWidth) : Instr → BitVec 65
  | .edge t => BitVec.ofNat 65 (2 ^ tw.bits + t.toNat)
  | .symNoise => 0b00#65
  | .symZero => 0b01#65
  | .symOne => 0b10#65
  | .symStart => 0b11#65
  | .nop arg => cmdWord 0x0#4 arg
  | .stat arg => cmdWord 0x1#4 arg
  | .acq arg => cmdWord 0x2#4 arg
  | .rdb k => cmdWord 0x3#4 k
  | .rel arg => cmdWord 0x4#4 arg
  | .tmo arg => cmdWord 0x5#4 arg
  | .rst arg => cmdWord 0xF#4 arg

/-- The port of a row of spec/opcode_table.json, told by its width in whole bytes: `SYM` has 2 bits, `CMD` 12, `EVT` 33 or 65 (log 11). -/
def tablePort (nbits : Nat) : Port :=
  if nbits ≤ 8 then .sym else if nbits ≤ 16 then .cmd else .evt

/-- The timestamp width of an `EVT` row, told the same way: 33 bits are 5 bytes, 65 bits are 9 (log 11). -/
def tableTimeWidth (nbits : Nat) : TimeWidth := if nbits ≤ 40 then .w32 else .w64

/-- The instruction the decoder reads from a row's word `w`, bit 0 of the port word being bit 0 of `w`. -/
def decodeTableWord (nbits w : Nat) : Option Instr :=
  if w < 2 ^ 65 then
    match decode (tableTimeWidth nbits) (tablePort nbits) (BitVec.ofNat 65 w) with
    | .ok i => some i
    | .error _ => none
  else none

end Sys2Proof
end

