-- ==== Sys2Proof/Machine/State.lean ====
section
/-! DEFINITION. The state of the machine as plain data (spec/10_state.md, the table of R56), the reasons a step can stop, and the state after
reset. The fields below the line "model's own" are no registers of the spec; each names the log entry that declares it. -/

namespace Sys2Proof.Machine

/-- A byte memory as (address, byte) pairs with strictly rising addresses. An unlisted address has not been written: it reads as no value
of its own (log 3). Used for the ring and for what `GET` wrote into the caller's buffer. -/
abbrev Memory := List Host.Cell

/-- The level of the transmitter's output pin (41_transmitter_encoder R161). -/
inductive Level where
  | low
  | high
deriving DecidableEq, Repr

/-- One (level, duration) segment that the transmitter drives, in microseconds (41_transmitter_encoder R160, R161). -/
structure Segment where
  level : Level
  duration : Nat
deriving DecidableEq, Repr

/-- A `SEND` in progress: the time its next segment begins and the segments still to be driven (41_transmitter_encoder R160 to R170). -/
structure Transmission where
  time : Stamp
  segments : List Segment
deriving DecidableEq, Repr

/-- `ST`, the status codes of the consumer (30_encoding R122). -/
inductive Status where
  | success
  | noData
  | corrupted
  | noise
  | bufferOverflow
  | duplicateMessage
deriving DecidableEq, Repr

/-- The port command the procedure `GET` issues next: the points of the pseudocode of 44_frame_consumer R256. -/
inductive GetPoint where
  /-- `STAT` of step 1 (R242) -/
  | stat
  /-- `ACQ` of step 2 (R243) -/
  | acq
  /-- the `REL` of a record that is too short (R245) -/
  | relShort
  /-- the `REL` of a record the caller's buffer cannot hold (R246) -/
  | relOverflow
  /-- `RDB 1`, the error-check byte (R247) -/
  | rdbCheck
  /-- `RDB (1 + EC_EN)`, the sequence byte (R247) -/
  | rdbSequence
  /-- the `RDB` of the next payload byte (R248) -/
  | rdbPayload
  /-- the `REL` after the copy (R249) -/
  | relCopied
deriving DecidableEq, Repr

/-- A `GET` in progress: where it stands and its private locals (44_frame_consumer R241). The loop position of the copy is the length of
`copied`. -/
structure GetCall where
  outCapacity : Byte
  point : GetPoint
  /-- `L`, the record's length as `ACQ` returned it -/
  len : Byte
  /-- `ec` -/
  check : Byte
  /-- `sq` -/
  sequence : Byte
  /-- the payload bytes copied so far in this attempt, byte 0 first -/
  copied : List Byte
deriving DecidableEq, Repr

/-- What `GET` returns (44_frame_consumer R240). -/
structure GetResult where
  status : Status
  bytesWritten : Byte
  messagesLost : Byte
deriving DecidableEq, Repr

/-- One request of an agent. The schedule of requests is the total order of all operations of 20_memory R81 (log 5). -/
inductive Request where
  /-- a word at a port, with the value of the `now` bus (30_encoding R113 to R115) -/
  | word (p : Port) (w : BitVec 65) (now : Stamp)
  /-- the caller calls `GET outCapacity` (44_frame_consumer R240) -/
  | get (outCapacity : Byte)
  /-- the `GET` in progress issues its next port command (44_frame_consumer R241) -/
  | getStep
  /-- the transmitter's caller calls `SEND payload`, first falling edge at `t0` (41_transmitter_encoder R160, R170) -/
  | send (payload : List Byte) (t0 : Stamp)
  /-- the `SEND` in progress drives its next pin segment (41_transmitter_encoder R161) -/
  | sendStep
  /-- a test forces `tx_sequence` before a `SEND` (41_transmitter_encoder R166) -/
  | forceSequence (v : Byte)
deriving DecidableEq, Repr

/-- The reasons for which the machine faults: none. "No operation of the block raises an exception, a fault or a trap" (60_exceptions
R270); "no behaviour of this block is treated as `fault` or `stuck`" (93_implementation_defined section 1). -/
inductive Fault where
deriving DecidableEq, Repr

/-- The reasons for which a step is refused. No meaning of an instruction answers with one: they are raised by the step around `exec`. -/
inductive Refusal where
  /-- raised by `exec` for an instruction without a meaning; no arm does. Safe. -/
  | notModelled (mnemonic : String)
  /-- raised by `step` when `cfg` is not well formed: "a model refuses a configuration that is not well formed" (00_scope R18). Safe. -/
  | illFormedConfig
  /-- raised by a port word with a bit above its format's width (log 11). Safe: no port carries such a word. -/
  | overWideWord
  /-- raised by an `RST` word while a `GET` is in progress: treatment `refuse` (93_implementation_defined U24). Safe. -/
  | resetDuringGet
  /-- raised by a call of `GET` while one is in progress: the foreground is one control flow (44_frame_consumer R241; log 12). Safe. -/
  | foregroundBusy
  /-- raised by a call of `SEND` while one is in progress: it "is not reentrant" (41_transmitter_encoder R172; log 14). Safe. -/
  | transmitterBusy
  /-- raised by a `SEND` whose payload the length byte cannot express: "a model refuses such a `SEND`" (41_transmitter_encoder R171).
  Safe. -/
  | oversizedPayload
deriving DecidableEq, Repr

/-- The whole state (10_state R56). -/
structure State where
  /-- `Cfg`, written by no operation (10_state R46, 20_memory R90; log 1) -/
  cfg : Cfg
  /-- `last_edge`, the time of the most recent falling edge, `TW` bits (R31) -/
  lastEdge : Stamp
  /-- `fip`, frame in progress (R33) -/
  fip : Bool
  /-- `pulse_cnt` (R34) -/
  pulseCnt : BitVec 3
  /-- `bit_acc` (R35) -/
  bitAcc : Byte
  /-- `byte_cnt` (R36) -/
  byteCnt : Byte
  /-- `declared_len` (R37) -/
  declaredLen : Byte
  /-- `frame_start` (R38) -/
  frameStart : Byte
  /-- `write_index` (R39) -/
  writeIndex : Byte
  /-- `drop_skip` (R40) -/
  dropSkip : Byte
  /-- `frames_buffered` (R41) -/
  framesBuffered : Byte
  /-- `read_index` (R42) -/
  readIndex : Byte
  /-- `drop_ack` (R43) -/
  dropAck : Byte
  /-- `last_sequence`; `none` is the sentinel `unset` (R44) -/
  lastSequence : Option Byte
  /-- `buf`: the bytes written since reset (R45; log 3) -/
  ring : Memory
  /-- `tx_sequence`, in the transmitter (R47) -/
  txSequence : Byte
  /-- the `SEND` in progress (41_transmitter_encoder R160; log 14) -/
  tx : Option Transmission
  /-- the transmitter's output pin (41_transmitter_encoder R160; log 14) -/
  txPin : Level
  /-- the `GET` in progress (44_frame_consumer R241; log 12) -/
  getCall : Option GetCall
  /-- what the last `GET` returned (44_frame_consumer R240; log 12) -/
  getResult : Option GetResult
  /-- the caller's output buffer, as far as `GET` wrote it (44_frame_consumer R248; log 13) -/
  outBuffer : Memory
  /-- model's own: the response of the last operation, `RSP` (30_encoding R117; log 8) -/
  rsp : Option (BitVec 10)
  /-- model's own: the `now` bus (30_encoding R114, R115; log 9) -/
  nowBus : Stamp
  /-- model's own: which reset the unwritten ring bytes belong to (70_reset R300; log 3) -/
  ringEpoch : Nat
  /-- model's own: the requests to come (20_memory R81; log 5) -/
  schedule : List Request
deriving DecidableEq, Repr

/-- The state after reset (10_state R56, 70_reset R300). `cfg` is "as constructed": here T1 (DESIGN CHOICE, log 1); the fields that are no
register of the spec are empty (DESIGN CHOICE, log 3, 5, 8, 9, 12, 13, 14). -/
def State.reset : State where
  cfg := Cfg.t1
  lastEdge := 0
  fip := false
  pulseCnt := 0
  bitAcc := 0
  byteCnt := 0
  declaredLen := 0
  frameStart := 0
  writeIndex := 0
  dropSkip := 0
  framesBuffered := 0
  readIndex := 0
  dropAck := 0
  lastSequence := none
  ring := []
  txSequence := 0
  tx := none
  txPin := .high
  getCall := none
  getResult := none
  outBuffer := []
  rsp := none
  nowBus := 0
  ringEpoch := 0
  schedule := []

end Sys2Proof.Machine
end

