-- ==== Sys2Proof/Machine/Ops.lean ====
section
/-! DEFINITION. The named operations over memory and registers: the ring (spec/20_memory.md R70, R72), the index arithmetic
(spec/43_ring_buffer.md R210 to R214) and one named update for each group of registers that some operation writes together.
The block takes no exception (spec/60_exceptions.md R270) and its interrupt saves nothing (R280), so there is no exception entry and no
return here: the interrupt is the operation `EDGE` itself. -/

namespace Sys2Proof.Machine

open Host

/-! ## Byte memories -/

/-- The byte written last at an address; `none` when nothing was written there. -/
def Memory.read? : Memory → Nat → Option Byte
  | [], _ => none
  | (b, v) :: m, a => if a = b then some v else Memory.read? m a

/-- Writes one byte, keeping the addresses strictly rising. -/
def Memory.write : Memory → Nat → Byte → Memory
  | [], a, v => [(a, v)]
  | (b, x) :: m, a, v =>
    if a < b then (a, v) :: (b, x) :: m
    else if a = b then (a, v) :: m
    else (b, x) :: Memory.write m a v

/-- The addresses rise strictly, from `lo` on, and stay below `bound`. -/
def Memory.wfFrom (bound : Nat) : Nat → Memory → Bool
  | _, [] => true
  | lo, (a, _) :: m => decide (lo ≤ a) && decide (a < bound) && Memory.wfFrom bound (a + 1) m

/-- The canonical form of a memory with addresses below `bound`: strictly rising addresses. A listed byte is never equal to what an
unlisted address reads as, which is no value (log 3). -/
def Memory.wf (bound : Nat) (m : Memory) : Bool := Memory.wfFrom bound 0 m

/-! ## Index arithmetic with wraparound -/

/-- `IDXINC` (43_ring_buffer R210). -/
def idxInc (cap : Nat) (i : Byte) : Byte := if i.toNat = cap - 1 then 0 else i + 1

/-- `IDXADD` (R211): the sum is formed over the naturals and reduced before it is stored. -/
def idxAdd (cap : Nat) (i : Byte) (n : Nat) : Byte := BitVec.ofNat 8 ((i.toNat + n) % cap)

/-- `IDXSUB` (R212). -/
def idxSub (cap : Nat) (a b : Byte) : Byte :=
  if b.toNat ≤ a.toNat then a - b else BitVec.ofNat 8 (a.toNat + cap - b.toNat)

/-- `tail`, the ring address of the oldest committed record neither consumed nor dropped (R213). -/
def State.tail (s : State) : Byte :=
  idxAdd s.cfg.cap s.readIndex (idxSub s.cfg.cap s.dropSkip s.dropAck).toNat

/-- `distance`, the unread bytes between the consumer's and the producer's cursors (R214). -/
def State.distance (s : State) : Byte := idxSub s.cfg.cap s.writeIndex s.tail

/-! ## The ring -/

/-- `MemRead(a, 1)` (20_memory R70, 45_arithmetic R269): the address is reduced modulo `CAP`; a byte that nothing has written since reset is
a free value (70_reset R300; log 3). -/
def State.ringByte (s : State) (a : Byte) : Byte :=
  (s.ring.read? (a.toNat % s.cfg.cap)).getD (Config.unwrittenByte s.ringEpoch (a.toNat % s.cfg.cap))

/-- `MemWrite(a, 1, v)` (R70, R269). -/
def State.writeRing (s : State) (a : Byte) (v : Byte) : State :=
  { s with ring := s.ring.write (a.toNat % s.cfg.cap) v }

/-! ## Register updates -/

/-- `last_edge`, truncated to `TW` bits (10_state R31). -/
def State.setLastEdge (s : State) (t : Stamp) : State := { s with lastEdge := s.cfg.stamp t }

/-- The assignments of a START symbol after its `COMMIT` (42_frame_assembler R184). -/
def State.openFrame (s : State) : State :=
  { s with fip := true, pulseCnt := 0, bitAcc := 0, byteCnt := 0, declaredLen := 0, frameStart := s.writeIndex }

/-- `fip <- 0` (R194). -/
def State.clearFip (s : State) : State := { s with fip := false }

/-- `bit_acc` and `pulse_cnt`, the shift register and its counter (R188). -/
def State.setShift (s : State) (acc : Byte) (cnt : BitVec 3) : State := { s with bitAcc := acc, pulseCnt := cnt }

/-- `declared_len <- v ; byte_cnt <- 1` (R190). -/
def State.setDeclared (s : State) (v : Byte) : State := { s with declaredLen := v, byteCnt := 1 }

/-- `byte_cnt` (R190). -/
def State.setByteCnt (s : State) (n : Byte) : State := { s with byteCnt := n }

/-- `write_index` (43_ring_buffer R216). -/
def State.setWriteIndex (s : State) (w : Byte) : State := { s with writeIndex := w }

/-- `drop_skip` and `frames_buffered`, written together by `DROP` (R217). -/
def State.setDropped (s : State) (skip n : Byte) : State := { s with dropSkip := skip, framesBuffered := n }

/-- `frames_buffered` (10_state R41). -/
def State.setFrames (s : State) (n : Byte) : State := { s with framesBuffered := n }

/-- `read_index` and `drop_ack`, written together by `ACQ` (43_ring_buffer R222). -/
def State.setReader (s : State) (r ack : Byte) : State := { s with readIndex := r, dropAck := ack }

/-- `read_index` and `frames_buffered`, written together by `REL` (R224). -/
def State.setReleased (s : State) (r n : Byte) : State := { s with readIndex := r, framesBuffered := n }

/-- `last_sequence` (10_state R44). -/
def State.setLastSequence (s : State) (q : Option Byte) : State := { s with lastSequence := q }

/-- The assignments of `RST` (70_reset R300). The ring's bytes become unspecified: what was written is forgotten and the unwritten bytes are
those of a new epoch (log 3). -/
def State.clearReceiver (s : State) : State :=
  { s with
    lastEdge := 0, fip := false, pulseCnt := 0, bitAcc := 0, byteCnt := 0, declaredLen := 0, frameStart := 0, writeIndex := 0,
    dropSkip := 0, framesBuffered := 0, readIndex := 0, dropAck := 0, lastSequence := none,
    ring := [], ringEpoch := s.ringEpoch + 1 }

/-- The response of the operation just done: none (log 8). -/
def State.silent (s : State) : State := { s with rsp := none }

/-- The response of the operation just done (30_encoding R117; log 8). -/
def State.setRsp (s : State) (r : BitVec 10) : State := { s with rsp := some r }

/-- The `now` bus, `TW` bits (30_encoding R114, R115; log 9). -/
def State.setNowBus (s : State) (t : Stamp) : State := { s with nowBus := s.cfg.stamp t }

/-- The requests to come (log 5). -/
def State.setSchedule (s : State) (rs : List Request) : State := { s with schedule := rs }

/-- The `GET` in progress (44_frame_consumer R241). -/
def State.setGetCall (s : State) (g : Option GetCall) : State := { s with getCall := g }

/-- What `GET` returned (44_frame_consumer R240). -/
def State.setGetResult (s : State) (r : Option GetResult) : State := { s with getResult := r }

/-- `out_buffer[i] <- v` (44_frame_consumer R248). -/
def State.writeOut (s : State) (i : Nat) (v : Byte) : State := { s with outBuffer := s.outBuffer.write i v }

/-- The `SEND` in progress (41_transmitter_encoder R160). -/
def State.setTx (s : State) (t : Option Transmission) : State := { s with tx := t }

/-- `set_pin_level` (41_transmitter_encoder R161). -/
def State.setTxPin (s : State) (l : Level) : State := { s with txPin := l }

/-- `tx_sequence` (10_state R47). -/
def State.setTxSequence (s : State) (v : Byte) : State := { s with txSequence := v }

end Sys2Proof.Machine
end

