-- ==== Sys2Proof/Machine/Operands.lean ====
section
/-! DEFINITION. Operand assembly: the period, the byte, the payload length, the loss, and the time of a port word
(spec/30_encoding.md R124 to R130). -/

namespace Sys2Proof.Machine

/-- `(now - before) mod 2^TW`, an unsigned number of microseconds (30_encoding R124, 45_arithmetic R264). -/
def elapsed (tw : TimeWidth) (now before : Stamp) : Nat := (now - before).toNat % 2 ^ tw.bits

/-- `PERIOD`: the time since the last falling edge (40_pulse_discriminator R141). -/
def State.period (s : State) (now : Stamp) : Nat := elapsed s.cfg.tw now s.lastEdge

/-- The accumulator after one more bit: with `MSB_FIRST` the bit enters bit 0, with `LSB_FIRST` bit 7 (42_frame_assembler R188). -/
def shiftIn (o : BitOrder) (acc : Byte) (b : Bool) : Byte :=
  match o with
  | .msbFirst => (acc.extractLsb' 0 7 ++ BitVec.ofBool b : BitVec 8)
  | .lsbFirst => (BitVec.ofBool b ++ acc.extractLsb' 1 7 : BitVec 8)

/-- The bits of a byte in the order in which they travel, first to last (20_memory R74, 30_encoding R104). -/
def byteBits (o : BitOrder) (v : Byte) : List Bool :=
  match o with
  | .msbFirst => (List.range 8).map fun i => v.getLsbD (7 - i)
  | .lsbFirst => (List.range 8).map fun i => v.getLsbD i

/-- `payload_len = length - EC_EN - SQ_EN`, used only when `length >= MIN_LEN` (30_encoding R126). -/
def payloadLen (c : Cfg) (len : Byte) : Nat := len.toNat - c.headerLen

/-- `messages_lost = (sequence - last_sequence - 1) mod 256` (30_encoding R129). -/
def messagesLost (sequence last : Byte) : Byte := sequence - last - 1

/-- The seed of the error check: the sequence byte when `SQ_EN = 1`, else 0 (30_encoding R107). -/
def checkSeed (c : Cfg) (sequence : Byte) : Byte := if c.sqEn then sequence else 0

/-- What the `now` bus carries with a port word: an edge event's own timestamp, else the time given with the word (30_encoding R114, R115;
log 9). -/
def busTime (tw : TimeWidth) (p : Port) (w : BitVec 65) (now : Stamp) : Stamp :=
  match p with
  | .evt => evtStamp tw w
  | .sym => now
  | .cmd => now

end Sys2Proof.Machine
end

