-- ==== Sys2Proof/Machine/Flags.lean ====
section
/-! DEFINITION. The one flag of the block and the codes the operations answer with (spec/10_state.md R33, R48, R52, spec/30_encoding.md R117,
R122). No operation sets a condition code. -/

namespace Sys2Proof.Machine

/-- The two states of the frame assembler (10_state R48). -/
inductive Phase where
  | idle
  | inFrame
deriving DecidableEq, Repr

/-- `state`: `IDLE` when `fip = 0`, `IN_FRAME` when `fip = 1` (10_state R48). -/
def State.phase (s : State) : Phase := if s.fip then .inFrame else .idle

/-- The return codes of the command port (30_encoding R117). -/
inductive ReturnCode where
  | ok
  | empty
  | overrun
  | invalid
deriving DecidableEq, Repr

/-- The two bits of a return code (R117). -/
def ReturnCode.bits : ReturnCode → BitVec 2
  | .ok => 0
  | .empty => 1
  | .overrun => 2
  | .invalid => 3

/-- The response word: `rc` in bits 9 to 8, `data` in bits 7 to 0 (R117). -/
def rspWord (rc : ReturnCode) (data : Byte) : BitVec 10 := rc.bits ++ data

/-- `rsp[9:8]` (R117). -/
def rspCode (r : BitVec 10) : BitVec 2 := r.extractLsb' 8 2

/-- `rsp[7:0]` (R117). -/
def rspData (r : BitVec 10) : Byte := r.extractLsb' 0 8

/-- The command answers `(rc, data)`. -/
def State.respond (s : State) (rc : ReturnCode) (data : Byte) : State := s.setRsp (rspWord rc data)

/-- The numbers of the status codes (30_encoding R122). -/
def Status.code : Status → BitVec 3
  | .success => 0
  | .noData => 1
  | .corrupted => 2
  | .noise => 3
  | .bufferOverflow => 4
  | .duplicateMessage => 5

end Sys2Proof.Machine
end

