-- ==== Sys2Proof/Machine/RingBuffer.lean ====
section
/-! DEFINITION. The circular frame buffer: the producer's `ADVANCE` and `DROP`, and the consumer port commands `STAT`, `ACQ`, `RDB`, `REL`, `NOP`
(spec/43_ring_buffer.md). -/

namespace Sys2Proof.Machine

open Host

/-- `DROP`: the oldest record ceases to exist for the consumer; `read_index` is not written (43_ring_buffer R217). -/
def drop (s : State) : State :=
  s.setDropped (idxAdd s.cfg.cap s.dropSkip (1 + (s.ringByte s.tail).toNat)) (s.framesBuffered - 1)

/-- `ADVANCE`: the producer claims one ring byte, dropping the oldest record first when the move would reach `tail` (R216). -/
def advance (s : State) : State :=
  if idxInc s.cfg.cap s.writeIndex = s.tail ∧ s.framesBuffered ≠ 0 then
    (drop s).setWriteIndex (idxInc s.cfg.cap s.writeIndex)
  else s.setWriteIndex (idxInc s.cfg.cap s.writeIndex)

/-- `NOP` (R226). -/
def execNop (s : State) : Outcome State Fault Refusal := .next (s.respond .ok 0)

/-- `STAT` (R221). -/
def execStat (s : State) : Outcome State Fault Refusal := .next (s.respond .ok s.framesBuffered)

/-- `ACQ`: `EMPTY`, or `read_index` resynchronised to `tail` and the oldest record's length (R222). -/
def execAcq (s : State) : Outcome State Fault Refusal :=
  if s.framesBuffered = 0 then .next (s.respond .empty 0)
  else .next ((s.setReader s.tail s.dropSkip).respond .ok (s.ringByte s.tail))

/-- `RDB k`: the ring byte at `read_index + k`, unchecked (R223). -/
def execRdb (k : Byte) (s : State) : Outcome State Fault Refusal :=
  .next (s.respond .ok (s.ringByte (idxAdd s.cfg.cap s.readIndex k.toNat)))

/-- `REL`: `OVERRUN`, else `EMPTY`, else the record at `read_index` is consumed (R224). -/
def execRel (s : State) : Outcome State Fault Refusal :=
  if s.dropSkip ≠ s.dropAck then .next (s.respond .overrun 0)
  else if s.framesBuffered = 0 then .next (s.respond .empty 0)
  else
    .next ((s.setReleased (idxAdd s.cfg.cap s.readIndex (1 + (s.ringByte s.readIndex).toNat)) (s.framesBuffered - 1)).respond .ok 0)

end Sys2Proof.Machine
end

