-- ==== Sys2Proof/Machine/Assembler.lean ====
section
/-! DEFINITION. The receiver frame assembler: `COMMIT`, `BYTE`, `PUSHBIT`, the four symbol handlers, `EDGE` and `TMO`
(spec/42_frame_assembler.md). -/

namespace Sys2Proof.Machine

open Host

/-- `COMMIT`: a test-and-clear of `fip`; a frame with at least one stored data byte becomes a record (42_frame_assembler R194). -/
def commit (s : State) : State :=
  if s.fip then
    if 2 ≤ s.byteCnt.toNat then
      (s.clearFip.writeRing s.frameStart (s.byteCnt - 1)).setFrames (s.framesBuffered + 1)
    else s.clearFip
  else s

/-- The ring and cursor part of a data byte: the header slot is claimed with the first one, then the byte is stored and claimed (R190, R193). -/
def storeByte (v : Byte) (s : State) : State :=
  if s.byteCnt = 1 then advance ((advance s).writeRing (advance s).writeIndex v)
  else advance (s.writeRing s.writeIndex v)

/-- `BYTE v` for the length byte: it is not stored; 0 or more than `MAX_LEN` closes the frame (R190). -/
def lengthByte (v : Byte) (s : State) : State :=
  if v = 0 ∨ s.cfg.maxLen < v.toNat then commit (s.setDeclared v) else s.setDeclared v

/-- `BYTE v` for a data byte: stored, counted, and the frame closed when the declared length is reached (R190, R191). -/
def dataByte (v : Byte) (s : State) : State :=
  if s.byteCnt = s.declaredLen then commit ((storeByte v s).setByteCnt (s.byteCnt + 1))
  else (storeByte v s).setByteCnt (s.byteCnt + 1)

/-- `BYTE v` (R190). -/
def byteReceived (v : Byte) (s : State) : State :=
  if s.byteCnt = 0 then lengthByte v s else dataByte v s

/-- `PUSHBIT b` (R188). -/
def pushBit (b : Bool) (s : State) : State :=
  if s.pulseCnt = 7 then
    byteReceived (shiftIn s.cfg.bitOrder s.bitAcc b) (s.setShift (shiftIn s.cfg.bitOrder s.bitAcc b) 0)
  else s.setShift (shiftIn s.cfg.bitOrder s.bitAcc b) (s.pulseCnt + 1)

/-- `SYM_START` (R184). -/
def symbolStart (s : State) : State := (commit s).openFrame

/-- `SYM_BIT(b)` (R185, R186): only inside a frame. -/
def symbolBit (b : Bool) (s : State) : State := if s.fip then pushBit b s else s

/-- `SYM_NOISE` (R187). -/
def symbolNoise (s : State) : State := commit s

/-- `HANDLE(sym)` (R182): by the symbol alone; "there is no fifth case". -/
def handle (y : Symbol) (s : State) : State :=
  match y with
  | .start => symbolStart s
  | .one => symbolBit true s
  | .zero => symbolBit false s
  | .noise => symbolNoise s

/-- `EDGE now` (R181): the period since the last edge, `last_edge`, the class of the period, its handler. No response. -/
def execEdge (t : Stamp) (s : State) : Outcome State Fault Refusal :=
  .next (handle (classify s.cfg (s.period t)) (s.setLastEdge t)).silent

/-- `SYM.START` at the assembler's input (R184). -/
def execSymStart (s : State) : Outcome State Fault Refusal := .next (symbolStart s).silent

/-- `SYM.ONE` at the assembler's input (R185). -/
def execSymOne (s : State) : Outcome State Fault Refusal := .next (symbolBit true s).silent

/-- `SYM.ZERO` at the assembler's input (R186). -/
def execSymZero (s : State) : Outcome State Fault Refusal := .next (symbolBit false s).silent

/-- `SYM.NOISE` at the assembler's input (R187). -/
def execSymNoise (s : State) : Outcome State Fault Refusal := .next (symbolNoise s).silent

/-- The condition under which `TMO` forces a commit: enabled, a frame in progress, silence strictly longer than `START_PERIOD` (R198). -/
def State.timedOut (s : State) : Bool :=
  s.cfg.tmoEn && s.fip && decide (s.cfg.startPeriod < s.period s.nowBus)

/-- `TMO`: the foreground timeout poll, with the time on the `now` bus (R198). -/
def execTmo (s : State) : Outcome State Fault Refusal :=
  if s.timedOut then .next ((commit s).respond .ok 1) else .next (s.respond .ok 0)

end Sys2Proof.Machine
end

