-- ==== Sys2Proof/Machine/Reset.lean ====
section
/-! DEFINITION. The reset operation (spec/70_reset_and_hazards.md R300). -/

namespace Sys2Proof.Machine

open Host

/-- `RST`: every register of the block at its reset value, the ring unspecified, `Cfg` and the transmitter untouched (70_reset R300). -/
def execRst (s : State) : Outcome State Fault Refusal := .next (s.clearReceiver.respond .ok 0)

end Sys2Proof.Machine
end

