-- ==== Sys2Proof/Machine/Dispatch.lean ====
section
/-! DEFINITION. One arm per operation of the opcode table (spec/30_encoding.md R118, R131). The `arg` byte of a command other than `RDB` is
ignored (R115). -/

namespace Sys2Proof.Machine

open Host

def exec (i : Instr) (s : State) : Host.Outcome State Fault Refusal :=
  match i with
  | .edge t => Sys2Proof.Machine.execEdge t s
  | .symStart => Sys2Proof.Machine.execSymStart s
  | .symOne => Sys2Proof.Machine.execSymOne s
  | .symZero => Sys2Proof.Machine.execSymZero s
  | .symNoise => Sys2Proof.Machine.execSymNoise s
  | .nop _ => Sys2Proof.Machine.execNop s
  | .stat _ => Sys2Proof.Machine.execStat s
  | .acq _ => Sys2Proof.Machine.execAcq s
  | .rdb k => Sys2Proof.Machine.execRdb k s
  | .rel _ => Sys2Proof.Machine.execRel s
  | .tmo _ => Sys2Proof.Machine.execTmo s
  | .rst _ => Sys2Proof.Machine.execRst s

end Sys2Proof.Machine
end

