-- ==== Sys2Proof/Machine/Consumer.lean ====
section
/-! DEFINITION. The frame consumer `GET`: a foreground procedure over the command port, run one port command at a time so that edges may fall
between two of them (spec/44_frame_consumer.md). The error-check function is an argument; the machine runs it with `Config.chk`. -/

namespace Sys2Proof.Machine

open Host

/-- A fresh `GET outCapacity`, at step 1 of R256, its locals cleared. -/
def freshGet (outCapacity : Byte) : GetCall where
  outCapacity := outCapacity
  point := .stat
  len := 0
  check := 0
  sequence := 0
  copied := []

/-- The payload length of the record a `GET` is reading (44_frame_consumer R244). -/
def GetCall.payloadLen (c : Cfg) (g : GetCall) : Nat := Machine.payloadLen c g.len

/-- The port command a `GET` issues at its point (R256): `STAT`, `ACQ`, `REL`, or an `RDB` at the record offset of the byte it wants
(R247, R248, 30_encoding R110). -/
def GetCall.command (c : Cfg) (g : GetCall) : Instr :=
  match g.point with
  | .stat => .stat 0
  | .acq => .acq 0
  | .relShort => .rel 0
  | .relOverflow => .rel 0
  | .rdbCheck => .rdb 1
  | .rdbSequence => .rdb (BitVec.ofNat 8 (1 + c.ecEn.toNat))
  | .rdbPayload => .rdb (BitVec.ofNat 8 (1 + c.headerLen + g.copied.length))
  | .relCopied => .rel 0

/-- The result of a `GET` whose status is not `SUCCESS`: both numbers are 0 (R255). -/
def failed (st : Status) : GetResult where
  status := st
  bytesWritten := 0
  messagesLost := 0

/-- Steps 7 and 7a: a check mismatch is `CORRUPTED`, a zero check value over an all-zero payload is `NOISE` (R250, R251). -/
def checkVerdict (chk : Byte → List Byte → Byte) (c : Cfg) (g : GetCall) : Option Status :=
  if c.ecEn then
    if chk (checkSeed c g.sequence) g.copied ≠ g.check then some .corrupted
    else if g.check = 0 ∧ g.copied.all (· == 0) then some .noise
    else none
  else none

/-- Steps 8 to 8b, the sequence tracker: the result and the new `last_sequence` (R252 to R254). -/
def sequenceVerdict (c : Cfg) (last : Option Byte) (g : GetCall) : GetResult × Option Byte :=
  if c.sqEn then
    match last with
    | none => (⟨.success, BitVec.ofNat 8 (g.payloadLen c), 0⟩, some g.sequence)
    | some l =>
      if c.ecEn ∧ g.sequence = l then (failed .duplicateMessage, last)
      else (⟨.success, BitVec.ofNat 8 (g.payloadLen c), messagesLost g.sequence l⟩, some g.sequence)
  else (⟨.success, BitVec.ofNat 8 (g.payloadLen c), 0⟩, last)

/-- What `GET1` makes of a released record: its result and the new `last_sequence` (R250 to R256). -/
def getVerdict (chk : Byte → List Byte → Byte) (c : Cfg) (last : Option Byte) (g : GetCall) : GetResult × Option Byte :=
  match checkVerdict chk c g with
  | some st => (failed st, last)
  | none => sequenceVerdict c last g

/-- The procedure returns `r`. -/
def State.returnGet (s : State) (r : GetResult) : State := (s.setGetCall none).setGetResult (some r)

/-- The procedure goes on at `g`. -/
def State.continueGet (s : State) (g : GetCall) : State := s.setGetCall (some g)

/-- The procedure starts over at step 1, its locals discarded (R249, R257). -/
def State.restartGet (s : State) (g : GetCall) : State := s.continueGet (freshGet g.outCapacity)

/-- The first point after the length is known and the record is long enough and fits (R247, R248). -/
def firstReadPoint (c : Cfg) : GetPoint :=
  if c.ecEn then .rdbCheck else if c.sqEn then .rdbSequence else .rdbPayload

/-- Steps 3 to 4, the record's length just acquired: too short, too long for the caller, or to be read (R244 to R246). -/
def acquired (g : GetCall) (len : Byte) (s : State) : State :=
  if len.toNat < s.cfg.minLen then s.continueGet { g with len := len, point := .relShort }
  else if g.outCapacity.toNat < payloadLen s.cfg len then
    if s.cfg.ovfConsumes then s.continueGet { g with len := len, point := .relOverflow }
    else s.returnGet (failed .bufferOverflow)
  else s.continueGet { g with len := len, point := firstReadPoint s.cfg }

/-- One payload byte arrived: stored in `out_buffer`, then the next one or the release (R248). -/
def payloadByte (g : GetCall) (v : Byte) (s : State) : State :=
  (s.writeOut g.copied.length v).continueGet
    { g with
      copied := g.copied ++ [v],
      point := if g.payloadLen s.cfg ≤ g.copied.length + 1 then .relCopied else .rdbPayload }

/-- Steps 7 to 8b after the release: a duplicate is skipped by starting over with the next record, anything else is returned (R249 to R257). -/
def concludeGet (chk : Byte → List Byte → Byte) (g : GetCall) (s : State) : State :=
  if (getVerdict chk s.cfg s.lastSequence g).1.status = .duplicateMessage then
    (s.setLastSequence (getVerdict chk s.cfg s.lastSequence g).2).restartGet g
  else
    (s.setLastSequence (getVerdict chk s.cfg s.lastSequence g).2).returnGet (getVerdict chk s.cfg s.lastSequence g).1

/-- What the procedure does with the response to the command of its point (R256). -/
def answerGet (chk : Byte → List Byte → Byte) (g : GetCall) (rc : BitVec 2) (data : Byte) (s : State) : State :=
  match g.point with
  | .stat => if data = 0 then s.returnGet (failed .noData) else s.continueGet { g with point := .acq }
  | .acq => if rc = ReturnCode.ok.bits then acquired g data s else s.returnGet (failed .noData)
  | .relShort => if rc = ReturnCode.ok.bits then s.returnGet (failed .noise) else s.restartGet g
  | .relOverflow => if rc = ReturnCode.ok.bits then s.returnGet (failed .bufferOverflow) else s.restartGet g
  | .rdbCheck => s.continueGet { g with check := data, point := if s.cfg.sqEn then .rdbSequence else .rdbPayload }
  | .rdbSequence => s.continueGet { g with sequence := data, point := .rdbPayload }
  | .rdbPayload => payloadByte g data s
  | .relCopied => if rc = ReturnCode.ok.bits then concludeGet chk g s else s.restartGet g

/-- The procedure takes the response the command left on the port. -/
def takeResponse (chk : Byte → List Byte → Byte) (g : GetCall) (s : State) : State :=
  match s.rsp with
  | some r => answerGet chk g (rspCode r) (rspData r) s
  | none => s

/-- The `GET` in progress issues its next port command and takes the response; with no call in progress the foreground has nothing to do
(R241; log 12). -/
def getStep (chk : Byte → List Byte → Byte) (s : State) : Outcome State Fault Refusal :=
  match s.getCall with
  | none => .next s
  | some g =>
    match exec (g.command s.cfg) s with
    | .next s' => .next (takeResponse chk g s')
    | .fault r => .fault r
    | .refused r => .refused r

/-- The caller calls `GET outCapacity` (R240). -/
def callGet (outCapacity : Byte) (s : State) : Outcome State Fault Refusal :=
  match s.getCall with
  | none => .next ((s.setGetResult none).continueGet (freshGet outCapacity))
  | some _ => .refused .foregroundBusy

/-- `k` commands of the `GET` in progress with no edge between them (R258). -/
def getSteps (chk : Byte → List Byte → Byte) : Nat → State → Outcome State Fault Refusal
  | 0, s => .next s
  | k + 1, s =>
    match getStep chk s with
    | .next s' => getSteps chk k s'
    | .fault r => .fault r
    | .refused r => .refused r

end Sys2Proof.Machine
end

