-- ==== Sys2Proof/Machine/Transmitter.lean ====
section
/-! DEFINITION. The transmitter encoder `SEND` (spec/41_transmitter_encoder.md), which reaches the receiver only through the falling edges its pin
segments cause, and the pseudo operations over it (spec/30_encoding.md R128). The channel is ideal: an edge arrives at the time it is made
(log 14). -/

namespace Sys2Proof.Machine

open Host

/-- `encode_bit` (30_encoding R102). -/
def encodeBit (c : Cfg) (b : Bool) : Nat := if b then c.onePeriod else c.zeroPeriod

/-- The eight pulses of a byte, `BITS v` (30_encoding R104, R128). -/
def bytePeriods (c : Cfg) (v : Byte) : List Nat := (byteBits c.bitOrder v).map (encodeBit c)

/-- `8 * NUM_PREAMBLE_BYTES` ZERO pulses (41_transmitter_encoder R162). -/
def preamblePeriods (c : Cfg) : List Nat := List.replicate (8 * c.numPreambleBytes) c.zeroPeriod

/-- `FRAME bytes`: the START pulse and the bits of the bytes (30_encoding R128; 41_transmitter_encoder R163 to R167). -/
def framePeriods (c : Cfg) (bytes : List Byte) : List Nat := c.startPeriod :: bytes.flatMap (bytePeriods c)

/-- The pulses of the noise burst, when there is one (41_transmitter_encoder R169). -/
def burstPeriods (c : Cfg) : List Nat := if c.txEotNoise then c.noiseBurst else []

/-- The bytes after the START pulse: length, error check, sequence, payload (30_encoding R105 to R109; 41_transmitter_encoder R164 to R167). -/
def frameBytes (chk : Byte → List Byte → Byte) (c : Cfg) (sequence : Byte) (payload : List Byte) : List Byte :=
  [BitVec.ofNat 8 (c.headerLen + payload.length)]
    ++ (if c.ecEn then [chk (checkSeed c sequence) payload] else [])
    ++ (if c.sqEn then [sequence] else [])
    ++ payload

/-- All periods of a transmission in order, `p1, p2, ..., pm` (41_transmitter_encoder R170). -/
def sendPeriods (chk : Byte → List Byte → Byte) (c : Cfg) (sequence : Byte) (payload : List Byte) : List Nat :=
  preamblePeriods c ++ framePeriods c (frameBytes chk c sequence payload) ++ burstPeriods c

/-- One pulse of period `p`: LOW for `p - HIGH_DURATION`, then HIGH for the rest of the period (41_transmitter_encoder R161; log 15). -/
def pulseSegments (c : Cfg) (p : Nat) : List Segment :=
  [⟨.low, p - c.highDuration⟩, ⟨.high, p - (p - c.highDuration)⟩]

/-- The forced LOW, a falling edge that closes the pulse before it (41_transmitter_encoder R168). -/
def forcedLow : Segment := ⟨.low, 0⟩

/-- The pin segments of a transmission, steps 1 to 8; the burst is closed by a LOW of its own (41_transmitter_encoder R162 to R170;
log 15). -/
def sendSegments (chk : Byte → List Byte → Byte) (c : Cfg) (sequence : Byte) (payload : List Byte) : List Segment :=
  (preamblePeriods c ++ framePeriods c (frameBytes chk c sequence payload)).flatMap (pulseSegments c)
    ++ [forcedLow]
    ++ (if burstPeriods c = [] then [] else (burstPeriods c).flatMap (pulseSegments c) ++ [forcedLow])

/-- The times at which a list of segments, the first beginning at `t`, makes a pin at `pin` fall (41_transmitter_encoder R170). -/
def fallingEdges (c : Cfg) : Level → Stamp → List Segment → List Stamp
  | _, _, [] => []
  | pin, t, g :: gs =>
    if pin = .high ∧ g.level = .low then t :: fallingEdges c g.level (c.stamp (t + BitVec.ofNat 64 g.duration)) gs
    else fallingEdges c g.level (c.stamp (t + BitVec.ofNat 64 g.duration)) gs

/-- The times `t0, t0 + p1, t0 + p1 + p2, ...`, modulo `2^TW` (41_transmitter_encoder R170). -/
def edgeTimes (c : Cfg) : Stamp → List Nat → List Stamp
  | t, [] => [t]
  | t, p :: ps => t :: edgeTimes c (c.stamp (t + BitVec.ofNat 64 p)) ps

/-- The largest payload the length byte can express (41_transmitter_encoder R160, R171). -/
def maxSendLen (c : Cfg) : Nat := 255 - c.headerLen

/-- The caller calls `SEND payload`; the line is HIGH before the first pulse (41_transmitter_encoder R160, R161, R171, R172). -/
def callSend (chk : Byte → List Byte → Byte) (payload : List Byte) (t0 : Stamp) (s : State) : Outcome State Fault Refusal :=
  match s.tx with
  | some _ => .refused .transmitterBusy
  | none =>
    if maxSendLen s.cfg < payload.length then .refused .oversizedPayload
    else .next ((s.setTxPin .high).setTx (some ⟨s.cfg.stamp t0, sendSegments chk s.cfg s.txSequence payload⟩))

/-- The end of a transmission: `tx_sequence` is incremented "after transmission completes", when sequencing is on (41_transmitter_encoder
R166). -/
def endSend (s : State) : State :=
  (s.setTx none).setTxSequence (if s.cfg.sqEn then s.txSequence + 1 else s.txSequence)

/-- The transmitter's own part of one segment: the pin level and the time the next segment begins (R161). -/
def driveSegment (t : Stamp) (g : Segment) (rest : List Segment) (s : State) : State :=
  (s.setTxPin g.level).setTx (some ⟨s.cfg.stamp (t + BitVec.ofNat 64 g.duration), rest⟩)

/-- The `SEND` in progress drives its next segment; a fall of the pin is an `EDGE` of the receiver at that time (41_transmitter_encoder R161,
R170). With no transmission in progress nothing happens (log 14). -/
def sendStep (s : State) : Outcome State Fault Refusal :=
  match s.tx with
  | none => .next s
  | some ⟨_, []⟩ => .next (endSend s)
  | some ⟨t, g :: rest⟩ =>
    if s.txPin = .high ∧ g.level = .low then exec (.edge t) ((driveSegment t g rest s).setNowBus t)
    else .next (driveSegment t g rest s)

/-- `k` segments of the `SEND` in progress with nothing between them. -/
def sendSteps : Nat → State → Outcome State Fault Refusal
  | 0, s => .next s
  | k + 1, s =>
    match sendStep s with
    | .next s' => sendSteps k s'
    | .fault r => .fault r
    | .refused r => .refused r

/-- `PULSE p`: an edge that makes the period exactly `p` (30_encoding R128). -/
def pulse (s : State) (p : Nat) : Instr := .edge (s.cfg.stamp (s.lastEdge + BitVec.ofNat 64 p))

/-- A run of `PULSE`s (30_encoding R128). -/
def pulses : List Nat → State → Outcome State Fault Refusal
  | [], s => .next s
  | p :: ps, s =>
    match exec (pulse s p) s with
    | .next s' => pulses ps s'
    | .fault r => .fault r
    | .refused r => .refused r

end Sys2Proof.Machine
end

