-- ==== Sys2Proof/Machine/Ports.lean ====
section
/-! DEFINITION. One request of the schedule: a port word is decoded and its operation run; the calls and steps of the companion procedures
(spec/20_memory.md R81, spec/30_encoding.md R113 to R119). -/

namespace Sys2Proof.Machine

open Host

/-- A reserved command opcode: no state change, response `INVALID` (30_encoding R119; log 10). -/
def execReserved (s : State) : Outcome State Fault Refusal := .next (s.respond .invalid 0)

/-- An `EVT` word that reports no edge: nothing happens, nothing is answered (30_encoding R114; log 10). -/
def execNoEvent (s : State) : Outcome State Fault Refusal := .next s.silent

/-- An `RST` while a `GET` is in progress is out of the model: refused (93_implementation_defined U24). -/
def resetDuringGet (i : Instr) (s : State) : Bool :=
  match i with
  | .rst _ => s.getCall.isSome
  | _ => false

/-- A word arrives at a port: the `now` bus carries its time, the word is decoded, its operation runs. -/
def runWord (p : Port) (w : BitVec 65) (now : Stamp) (s : State) : Outcome State Fault Refusal :=
  match decode s.cfg.tw p w with
  | .ok i =>
    if resetDuringGet i s then .refused .resetDuringGet
    else exec i (s.setNowBus (busTime s.cfg.tw p w now))
  | .error (.reserved _) => execReserved (s.setNowBus (busTime s.cfg.tw p w now))
  | .error .noStrobe => execNoEvent (s.setNowBus (busTime s.cfg.tw p w now))
  | .error .overWide => .refused .overWideWord

/-- One request runs, atomically (20_memory R81). -/
def perform (r : Request) (s : State) : Outcome State Fault Refusal :=
  match r with
  | .word p w now => runWord p w now s
  | .get cap => callGet cap s
  | .getStep => getStep Config.chk s
  | .send payload t0 => callSend Config.chk payload t0 s
  | .sendStep => sendStep s
  | .forceSequence v => .next (s.setTxSequence v)

/-- The next request of the schedule runs; with none to come the block is at rest (log 6). -/
def runSchedule (s : State) : Outcome State Fault Refusal :=
  match s.schedule with
  | [] => .next s
  | r :: rest => perform r (s.setSchedule rest)

/-- The word of an opcode-table row becomes the next request, with the time now on the bus (log 5). -/
def State.withNextWord (s : State) (p : Port) (w : BitVec 65) : State :=
  s.setSchedule (.word p w s.nowBus :: s.schedule)

end Sys2Proof.Machine
end

