-- ==== Sys2Proof/Machine/Step.lean ====
section
/-! DEFINITION. One step of the machine: the next request of the total order of operations (spec/20_memory.md R81), under a configuration that is
well formed (spec/00_scope.md R18). -/

namespace Sys2Proof.Machine

open Host

/-- One step. "A model refuses a configuration that is not well formed" (00_scope R18). -/
def step (s : State) : Host.Outcome State Fault Refusal :=
  if s.cfg.wf then runSchedule s else .refused .illFormedConfig

/-- The instruction whose opcode-table word is `w` placed where the next step takes its request: at the head of the schedule (log 5). -/
def State.withFetchWord (s : State) (nbits w : Nat) : State :=
  s.withNextWord (tablePort nbits) (BitVec.ofNat 65 w)

end Sys2Proof.Machine
end

