-- ==== Sys2Proof/Laws/Config.lean ====
section
/-! SUPPORT. What a well-formed configuration gives, once. -/

namespace Sys2Proof

/-- The checks a well-formed configuration passes, one by one. -/
theorem Cfg.wf_parts {c : Cfg} (h : c.wf = true) :
    c.periodsOrdered = true ∧ c.noUnderflow = true ∧ c.thresholdsFit = true ∧ c.bandsOrdered = true ∧ c.capInRange = true ∧
      c.highFits = true ∧ c.startWidened = true ∧ c.burstIsNoise = true := by
  simpa only [Cfg.wf, Bool.and_eq_true, and_assoc] using h

/-- The capacity of a well-formed configuration (00_scope R18). -/
theorem Cfg.cap_bounds {c : Cfg} (h : c.wf = true) : 4 ≤ c.cap ∧ c.cap ≤ 256 := by
  obtain ⟨-, -, -, -, hc, -⟩ := Cfg.wf_parts h
  exact of_decide_eq_true hc

/-- A period of the noise burst has `TW` bits and is NOISE (00_scope R17). -/
theorem Cfg.burst_noise {c : Cfg} (h : c.wf = true) {p : Nat} (hp : p ∈ c.noiseBurst) :
    p < 2 ^ c.tw.bits ∧ Machine.classify c p = .noise := by
  obtain ⟨-, -, -, -, -, -, -, hb⟩ := Cfg.wf_parts h
  exact of_decide_eq_true (List.all_eq_true.mp hb p hp)

end Sys2Proof
end

