-- ==== Sys2Proof/Safety.lean ====
section
/-! DEFINITION. What a safe run is, in the terms claims use: the invariants of spec/43_ring_buffer.md R230 to R234, the canonical form of the
memories, the bounds of the registers, and the procedures in closed form. No operation checks any of this at run time (R230, R58). -/

namespace Sys2Proof.Machine

open Host

/-! ## The chain of records (43_ring_buffer R230) -/

/-- Walks `n` records from the header slot `a`: every length byte has been written since reset and is between 1 and `MAX_LEN`. Answers the address
after the last record and the number of bytes walked over (R230 b, d). -/
def chainFrom (c : Cfg) (m : Memory) : Nat → Byte → Option (Byte × Nat)
  | 0, a => some (a, 0)
  | n + 1, a =>
    match m.read? a.toNat with
    | none => none
    | some len =>
      if 1 ≤ len.toNat ∧ len.toNat ≤ c.maxLen then
        match chainFrom c m n (idxAdd c.cap a (1 + len.toNat)) with
        | none => none
        | some (e, t) => some (e, 1 + len.toNat + t)
      else none

/-- `E`: where the chain of committed records ends (R230 b). -/
def State.chainEnd (s : State) : Byte := if s.fip then s.frameStart else s.writeIndex

/-- The ring bytes the frame in progress has claimed (R230 d). -/
def State.claimed (s : State) : Nat := if s.fip = true ∧ 2 ≤ s.byteCnt.toNat then s.byteCnt.toNat else 0

/-- R230 (a): every cursor and counter modulo `CAP` is below `CAP`. -/
abbrev State.indicesInRange (s : State) : Prop :=
  s.writeIndex.toNat < s.cfg.cap ∧ s.readIndex.toNat < s.cfg.cap ∧ s.frameStart.toNat < s.cfg.cap ∧
    s.dropSkip.toNat < s.cfg.cap ∧ s.dropAck.toNat < s.cfg.cap

/-- R230 (b) and (d): the walk from `tail` over `frames_buffered` records ends where the frame in progress starts, and `distance` counts exactly
the bytes walked over and claimed. -/
def State.chained (s : State) : Prop :=
  ∃ total, chainFrom s.cfg s.ring s.framesBuffered.toNat s.tail = some (s.chainEnd, total) ∧
    s.distance.toNat = total + s.claimed ∧ total + s.claimed ≤ s.cfg.cap - 1

/-- R230 (c): where `write_index` stands relative to the frame in progress. -/
abbrev State.cursorPlaced (s : State) : Prop :=
  s.fip = true →
    s.writeIndex = if 2 ≤ s.byteCnt.toNat then idxAdd s.cfg.cap s.frameStart s.byteCnt.toNat else s.frameStart

/-- R234: the bounds on `byte_cnt` and `declared_len`. -/
abbrev State.countsBounded (s : State) : Prop :=
  s.byteCnt.toNat ≤ s.cfg.cap - 1 ∧
    (s.fip = true → 1 ≤ s.byteCnt.toNat →
      s.byteCnt.toNat ≤ s.declaredLen.toNat ∧ s.declaredLen.toNat ≤ s.cfg.maxLen)

/-- The invariants of R230 and R234 together, for a well-formed configuration and a canonical ring. -/
structure RingInv (s : State) : Prop where
  cfgWf : s.cfg.wf = true
  ringWf : s.ring.wf s.cfg.cap = true
  indices : s.indicesInRange
  chain : s.chained
  cursor : s.cursorPlaced
  counts : s.countsBounded

/-- The address `k` bytes after `tail`. -/
def State.fromTail (s : State) (k : Nat) : Nat := (idxAdd s.cfg.cap s.tail k).toNat

/-- Every byte of every committed record was written by the producer after reset (70_reset R302): of the `distance` bytes from `tail` on, only the
header slot of the frame in progress, `byte_cnt` bytes before `write_index`, may be unwritten. -/
abbrev State.recordsWritten (s : State) : Prop :=
  ∀ k < s.distance.toNat, k + s.claimed ≠ s.distance.toNat → s.ring.read? (s.fromTail k) ≠ none

/-! ## Bounds that do not concern the ring -/

/-- `last_edge` and the `now` bus have `TW` bits (10_state R31). -/
abbrev State.stampsFit (s : State) : Prop :=
  s.lastEdge.toNat < 2 ^ s.cfg.tw.bits ∧ s.nowBus.toNat < 2 ^ s.cfg.tw.bits

/-- With sequencing off `last_sequence` "stays `unset` for ever" (44_frame_consumer R252). -/
abbrev State.trackerIdle (s : State) : Prop := s.cfg.sqEn = false → s.lastSequence = none

/-- `DUPLICATE_MESSAGE` is never returned to the caller (44_frame_consumer R257). -/
def State.noDuplicateReturned (s : State) : Prop :=
  ∀ r, s.getResult = some r → r.status ≠ .duplicateMessage

/-! ## The consumer in closed form (44_frame_consumer R258) -/

/-- The record bytes `i` with `lo <= i < lo + n` behind the header slot `a`. -/
def State.recordBytes (s : State) (a : Byte) (lo n : Nat) : List Byte :=
  (List.range n).map fun i => s.ringByte (idxAdd s.cfg.cap a (lo + i))

/-- `consume` of R258: `read_index` past the record, `drop_ack`, `frames_buffered`. -/
def State.consumeAt (s : State) (a : Byte) : State :=
  ((s.setReader a s.dropSkip).setReleased (idxAdd s.cfg.cap a (1 + (s.ringByte a).toNat)) (s.framesBuffered - 1))

/-- The locals of a `GET1` that has read the whole record at `a` (R247, R248). -/
def State.recordRead (s : State) (a : Byte) (outCapacity : Byte) : GetCall where
  outCapacity := outCapacity
  point := .relCopied
  len := s.ringByte a
  check := if s.cfg.ecEn then s.ringByte (idxAdd s.cfg.cap a 1) else 0
  sequence := if s.cfg.sqEn then s.ringByte (idxAdd s.cfg.cap a (1 + s.cfg.ecEn.toNat)) else 0
  copied := s.recordBytes a (1 + s.cfg.headerLen) (payloadLen s.cfg (s.ringByte a))

/-- `GET1` with no edge in between, as one function of the state: the registers after it, what it returns, and what it adds to the tracker
(R258). -/
def getClosed (chk : Byte → List Byte → Byte) (outCapacity : Byte) (s : State) : State × GetResult :=
  if s.framesBuffered = 0 then (s, failed .noData)
  else if (s.ringByte s.tail).toNat < s.cfg.minLen then (s.consumeAt s.tail, failed .noise)
  else if outCapacity.toNat < payloadLen s.cfg (s.ringByte s.tail) then
    if s.cfg.ovfConsumes then (s.consumeAt s.tail, failed .bufferOverflow)
    else (s.setReader s.tail s.dropSkip, failed .bufferOverflow)
  else
    ((s.consumeAt s.tail).setLastSequence (getVerdict chk s.cfg s.lastSequence (s.recordRead s.tail outCapacity)).2,
      (getVerdict chk s.cfg s.lastSequence (s.recordRead s.tail outCapacity)).1)

/-- How many bytes a `GET` with no edge in between copies into the caller's buffer: `plen` of a record that is long enough and fits, else none
(R245, R246, R248); after a failure the copied bytes are the model's choice (log 13). -/
def State.copyLen (s : State) (outCapacity : Byte) : Nat :=
  if s.framesBuffered = 0 ∨ (s.ringByte s.tail).toNat < s.cfg.minLen ∨
      outCapacity.toNat < payloadLen s.cfg (s.ringByte s.tail) then 0
  else payloadLen s.cfg (s.ringByte s.tail)

/-! ## Which registers an agent may write (60_exceptions R284) -/

/-- The consumer-owned registers and the tracker are the same (10_state R42 to R44). -/
def State.sameConsumer (s t : State) : Prop :=
  t.readIndex = s.readIndex ∧ t.dropAck = s.dropAck ∧ t.lastSequence = s.lastSequence

/-- The assembler's working registers are the same (10_state R31 to R38). -/
def State.sameAssembler (s t : State) : Prop :=
  t.lastEdge = s.lastEdge ∧ t.fip = s.fip ∧ t.pulseCnt = s.pulseCnt ∧ t.bitAcc = s.bitAcc ∧ t.byteCnt = s.byteCnt ∧
    t.declaredLen = s.declaredLen ∧ t.frameStart = s.frameStart

/-- The producer's ring registers are the same (10_state R39, R40). -/
def State.sameProducerCursors (s t : State) : Prop := t.writeIndex = s.writeIndex ∧ t.dropSkip = s.dropSkip

/-- Everything of the companions and of the model's own fields but the response is the same, and so is the configuration. -/
def State.sameOutside (s t : State) : Prop :=
  t.cfg = s.cfg ∧ t.txSequence = s.txSequence ∧ t.tx = s.tx ∧ t.txPin = s.txPin ∧ t.getCall = s.getCall ∧ t.getResult = s.getResult ∧
    t.outBuffer = s.outBuffer ∧ t.nowBus = s.nowBus ∧ t.schedule = s.schedule

/-- Every ring byte reads as before. -/
def State.sameRing (s t : State) : Prop := ∀ a : Byte, t.ringByte a = s.ringByte a

/-- Every other field of the state is left to the operation: the registers that no symbol writes but the producer's and the shared counter. -/
def State.sameBesideProducer (s t : State) : Prop :=
  s.sameConsumer t ∧ s.sameOutside t ∧ t.ringEpoch = s.ringEpoch

/-- What `COMMIT` does to the ring and the counter (42_frame_assembler R194): with at least one stored data byte the header slot receives the
number of stored bytes and one more record is counted, every other ring byte reading as before; else nothing. -/
def State.committedInto (s t : State) : Prop :=
  if s.fip = true ∧ 2 ≤ s.byteCnt.toNat then
    t.framesBuffered = s.framesBuffered + 1 ∧ t.ringByte s.frameStart = s.byteCnt - 1 ∧
      ∀ a : Byte, a.toNat % s.cfg.cap ≠ s.frameStart.toNat % s.cfg.cap → t.ringByte a = s.ringByte a
  else t.framesBuffered = s.framesBuffered ∧ s.sameRing t

/-- The ring slot the next data byte goes to: behind the header slot for the first one (42_frame_assembler R190, R193). -/
def State.dataSlot (s : State) : Byte :=
  if s.byteCnt = 1 then idxInc s.cfg.cap s.writeIndex else s.writeIndex

/-- The ring bytes the next data byte claims: its own, and the header slot with the first one (R193). -/
def State.dataClaims (s : State) : Nat := if s.byteCnt = 1 then 2 else 1

/-- Claiming that many bytes would make `write_index` reach `tail` while a record is buffered (43_ring_buffer R216). -/
abbrev State.dataDrops (s : State) : Prop :=
  s.framesBuffered ≠ 0 ∧ s.cfg.cap ≤ s.distance.toNat + s.dataClaims

/-- A run of symbols at the assembler's input (42_frame_assembler R182). -/
def handleAll (ys : List Symbol) (s : State) : State := ys.foldl (fun s y => handle y s) s

/-- The symbol that carries a data bit (30_encoding R113). -/
def bitSymbol (b : Bool) : Symbol := if b then .one else .zero

/-- The symbols of a byte in the order in which they travel (30_encoding R104). -/
def byteSymbols (o : BitOrder) (v : Byte) : List Symbol := (byteBits o v).map bitSymbol

/-- The instruction that carries a symbol to the assembler (30_encoding R113). -/
def symbolInstr : Symbol → Instr
  | .start => .symStart
  | .one => .symOne
  | .zero => .symZero
  | .noise => .symNoise

/-- The state after one edge (42_frame_assembler R181). -/
def edgeState (t : Stamp) (s : State) : State := (handle (classify s.cfg (s.period t)) (s.setLastEdge t)).silent

/-- The state after a run of edges. -/
def edgesAt (ts : List Stamp) (s : State) : State := ts.foldl (fun s t => edgeState t s) s

/-- A run of the machine is safe when no step of it stops: the block has no failure path (60_exceptions R270). -/
def Completes (o : Outcome State Fault Refusal) : Prop := ∃ t, o = .next t

end Sys2Proof.Machine
end

