-- ==== Sys2Proof/Laws/State.lean ====
section
/-! SUPPORT. What each field holds after each named update of State: one lemma per field per update, so that no proof unfolds a record update. -/

namespace Sys2Proof.Machine

variable (s : State)

/-! ### writeRing -/

@[simp] theorem writeRing_cfg (a v : Byte) : (s.writeRing a v).cfg = s.cfg := rfl
@[simp] theorem writeRing_lastEdge (a v : Byte) : (s.writeRing a v).lastEdge = s.lastEdge := rfl
@[simp] theorem writeRing_fip (a v : Byte) : (s.writeRing a v).fip = s.fip := rfl
@[simp] theorem writeRing_pulseCnt (a v : Byte) : (s.writeRing a v).pulseCnt = s.pulseCnt := rfl
@[simp] theorem writeRing_bitAcc (a v : Byte) : (s.writeRing a v).bitAcc = s.bitAcc := rfl
@[simp] theorem writeRing_byteCnt (a v : Byte) : (s.writeRing a v).byteCnt = s.byteCnt := rfl
@[simp] theorem writeRing_declaredLen (a v : Byte) : (s.writeRing a v).declaredLen = s.declaredLen := rfl
@[simp] theorem writeRing_frameStart (a v : Byte) : (s.writeRing a v).frameStart = s.frameStart := rfl
@[simp] theorem writeRing_writeIndex (a v : Byte) : (s.writeRing a v).writeIndex = s.writeIndex := rfl
@[simp] theorem writeRing_dropSkip (a v : Byte) : (s.writeRing a v).dropSkip = s.dropSkip := rfl
@[simp] theorem writeRing_framesBuffered (a v : Byte) : (s.writeRing a v).framesBuffered = s.framesBuffered := rfl
@[simp] theorem writeRing_readIndex (a v : Byte) : (s.writeRing a v).readIndex = s.readIndex := rfl
@[simp] theorem writeRing_dropAck (a v : Byte) : (s.writeRing a v).dropAck = s.dropAck := rfl
@[simp] theorem writeRing_lastSequence (a v : Byte) : (s.writeRing a v).lastSequence = s.lastSequence := rfl
@[simp] theorem writeRing_ring (a v : Byte) : (s.writeRing a v).ring = s.ring.write (a.toNat % s.cfg.cap) v := rfl
@[simp] theorem writeRing_txSequence (a v : Byte) : (s.writeRing a v).txSequence = s.txSequence := rfl
@[simp] theorem writeRing_tx (a v : Byte) : (s.writeRing a v).tx = s.tx := rfl
@[simp] theorem writeRing_txPin (a v : Byte) : (s.writeRing a v).txPin = s.txPin := rfl
@[simp] theorem writeRing_getCall (a v : Byte) : (s.writeRing a v).getCall = s.getCall := rfl
@[simp] theorem writeRing_getResult (a v : Byte) : (s.writeRing a v).getResult = s.getResult := rfl
@[simp] theorem writeRing_outBuffer (a v : Byte) : (s.writeRing a v).outBuffer = s.outBuffer := rfl
@[simp] theorem writeRing_rsp (a v : Byte) : (s.writeRing a v).rsp = s.rsp := rfl
@[simp] theorem writeRing_nowBus (a v : Byte) : (s.writeRing a v).nowBus = s.nowBus := rfl
@[simp] theorem writeRing_ringEpoch (a v : Byte) : (s.writeRing a v).ringEpoch = s.ringEpoch := rfl
@[simp] theorem writeRing_schedule (a v : Byte) : (s.writeRing a v).schedule = s.schedule := rfl
@[simp] theorem writeRing_tail (a v : Byte) : (s.writeRing a v).tail = s.tail := rfl
@[simp] theorem writeRing_distance (a v : Byte) : (s.writeRing a v).distance = s.distance := rfl

/-! ### setLastEdge -/

@[simp] theorem setLastEdge_cfg (t : Stamp) : (s.setLastEdge t).cfg = s.cfg := rfl
@[simp] theorem setLastEdge_lastEdge (t : Stamp) : (s.setLastEdge t).lastEdge = s.cfg.stamp t := rfl
@[simp] theorem setLastEdge_fip (t : Stamp) : (s.setLastEdge t).fip = s.fip := rfl
@[simp] theorem setLastEdge_pulseCnt (t : Stamp) : (s.setLastEdge t).pulseCnt = s.pulseCnt := rfl
@[simp] theorem setLastEdge_bitAcc (t : Stamp) : (s.setLastEdge t).bitAcc = s.bitAcc := rfl
@[simp] theorem setLastEdge_byteCnt (t : Stamp) : (s.setLastEdge t).byteCnt = s.byteCnt := rfl
@[simp] theorem setLastEdge_declaredLen (t : Stamp) : (s.setLastEdge t).declaredLen = s.declaredLen := rfl
@[simp] theorem setLastEdge_frameStart (t : Stamp) : (s.setLastEdge t).frameStart = s.frameStart := rfl
@[simp] theorem setLastEdge_writeIndex (t : Stamp) : (s.setLastEdge t).writeIndex = s.writeIndex := rfl
@[simp] theorem setLastEdge_dropSkip (t : Stamp) : (s.setLastEdge t).dropSkip = s.dropSkip := rfl
@[simp] theorem setLastEdge_framesBuffered (t : Stamp) : (s.setLastEdge t).framesBuffered = s.framesBuffered := rfl
@[simp] theorem setLastEdge_readIndex (t : Stamp) : (s.setLastEdge t).readIndex = s.readIndex := rfl
@[simp] theorem setLastEdge_dropAck (t : Stamp) : (s.setLastEdge t).dropAck = s.dropAck := rfl
@[simp] theorem setLastEdge_lastSequence (t : Stamp) : (s.setLastEdge t).lastSequence = s.lastSequence := rfl
@[simp] theorem setLastEdge_ring (t : Stamp) : (s.setLastEdge t).ring = s.ring := rfl
@[simp] theorem setLastEdge_txSequence (t : Stamp) : (s.setLastEdge t).txSequence = s.txSequence := rfl
@[simp] theorem setLastEdge_tx (t : Stamp) : (s.setLastEdge t).tx = s.tx := rfl
@[simp] theorem setLastEdge_txPin (t : Stamp) : (s.setLastEdge t).txPin = s.txPin := rfl
@[simp] theorem setLastEdge_getCall (t : Stamp) : (s.setLastEdge t).getCall = s.getCall := rfl
@[simp] theorem setLastEdge_getResult (t : Stamp) : (s.setLastEdge t).getResult = s.getResult := rfl
@[simp] theorem setLastEdge_outBuffer (t : Stamp) : (s.setLastEdge t).outBuffer = s.outBuffer := rfl
@[simp] theorem setLastEdge_rsp (t : Stamp) : (s.setLastEdge t).rsp = s.rsp := rfl
@[simp] theorem setLastEdge_nowBus (t : Stamp) : (s.setLastEdge t).nowBus = s.nowBus := rfl
@[simp] theorem setLastEdge_ringEpoch (t : Stamp) : (s.setLastEdge t).ringEpoch = s.ringEpoch := rfl
@[simp] theorem setLastEdge_schedule (t : Stamp) : (s.setLastEdge t).schedule = s.schedule := rfl
@[simp] theorem setLastEdge_tail (t : Stamp) : (s.setLastEdge t).tail = s.tail := rfl
@[simp] theorem setLastEdge_distance (t : Stamp) : (s.setLastEdge t).distance = s.distance := rfl
@[simp] theorem setLastEdge_ringByte (t : Stamp) (x : Byte) : (s.setLastEdge t).ringByte x = s.ringByte x := rfl

/-! ### openFrame -/

@[simp] theorem openFrame_cfg : s.openFrame.cfg = s.cfg := rfl
@[simp] theorem openFrame_lastEdge : s.openFrame.lastEdge = s.lastEdge := rfl
@[simp] theorem openFrame_fip : s.openFrame.fip = true := rfl
@[simp] theorem openFrame_pulseCnt : s.openFrame.pulseCnt = 0 := rfl
@[simp] theorem openFrame_bitAcc : s.openFrame.bitAcc = 0 := rfl
@[simp] theorem openFrame_byteCnt : s.openFrame.byteCnt = 0 := rfl
@[simp] theorem openFrame_declaredLen : s.openFrame.declaredLen = 0 := rfl
@[simp] theorem openFrame_frameStart : s.openFrame.frameStart = s.writeIndex := rfl
@[simp] theorem openFrame_writeIndex : s.openFrame.writeIndex = s.writeIndex := rfl
@[simp] theorem openFrame_dropSkip : s.openFrame.dropSkip = s.dropSkip := rfl
@[simp] theorem openFrame_framesBuffered : s.openFrame.framesBuffered = s.framesBuffered := rfl
@[simp] theorem openFrame_readIndex : s.openFrame.readIndex = s.readIndex := rfl
@[simp] theorem openFrame_dropAck : s.openFrame.dropAck = s.dropAck := rfl
@[simp] theorem openFrame_lastSequence : s.openFrame.lastSequence = s.lastSequence := rfl
@[simp] theorem openFrame_ring : s.openFrame.ring = s.ring := rfl
@[simp] theorem openFrame_txSequence : s.openFrame.txSequence = s.txSequence := rfl
@[simp] theorem openFrame_tx : s.openFrame.tx = s.tx := rfl
@[simp] theorem openFrame_txPin : s.openFrame.txPin = s.txPin := rfl
@[simp] theorem openFrame_getCall : s.openFrame.getCall = s.getCall := rfl
@[simp] theorem openFrame_getResult : s.openFrame.getResult = s.getResult := rfl
@[simp] theorem openFrame_outBuffer : s.openFrame.outBuffer = s.outBuffer := rfl
@[simp] theorem openFrame_rsp : s.openFrame.rsp = s.rsp := rfl
@[simp] theorem openFrame_nowBus : s.openFrame.nowBus = s.nowBus := rfl
@[simp] theorem openFrame_ringEpoch : s.openFrame.ringEpoch = s.ringEpoch := rfl
@[simp] theorem openFrame_schedule : s.openFrame.schedule = s.schedule := rfl
@[simp] theorem openFrame_tail : s.openFrame.tail = s.tail := rfl
@[simp] theorem openFrame_distance : s.openFrame.distance = s.distance := rfl
@[simp] theorem openFrame_ringByte (x : Byte) : s.openFrame.ringByte x = s.ringByte x := rfl

/-! ### clearFip -/

@[simp] theorem clearFip_cfg : s.clearFip.cfg = s.cfg := rfl
@[simp] theorem clearFip_lastEdge : s.clearFip.lastEdge = s.lastEdge := rfl
@[simp] theorem clearFip_fip : s.clearFip.fip = false := rfl
@[simp] theorem clearFip_pulseCnt : s.clearFip.pulseCnt = s.pulseCnt := rfl
@[simp] theorem clearFip_bitAcc : s.clearFip.bitAcc = s.bitAcc := rfl
@[simp] theorem clearFip_byteCnt : s.clearFip.byteCnt = s.byteCnt := rfl
@[simp] theorem clearFip_declaredLen : s.clearFip.declaredLen = s.declaredLen := rfl
@[simp] theorem clearFip_frameStart : s.clearFip.frameStart = s.frameStart := rfl
@[simp] theorem clearFip_writeIndex : s.clearFip.writeIndex = s.writeIndex := rfl
@[simp] theorem clearFip_dropSkip : s.clearFip.dropSkip = s.dropSkip := rfl
@[simp] theorem clearFip_framesBuffered : s.clearFip.framesBuffered = s.framesBuffered := rfl
@[simp] theorem clearFip_readIndex : s.clearFip.readIndex = s.readIndex := rfl
@[simp] theorem clearFip_dropAck : s.clearFip.dropAck = s.dropAck := rfl
@[simp] theorem clearFip_lastSequence : s.clearFip.lastSequence = s.lastSequence := rfl
@[simp] theorem clearFip_ring : s.clearFip.ring = s.ring := rfl
@[simp] theorem clearFip_txSequence : s.clearFip.txSequence = s.txSequence := rfl
@[simp] theorem clearFip_tx : s.clearFip.tx = s.tx := rfl
@[simp] theorem clearFip_txPin : s.clearFip.txPin = s.txPin := rfl
@[simp] theorem clearFip_getCall : s.clearFip.getCall = s.getCall := rfl
@[simp] theorem clearFip_getResult : s.clearFip.getResult = s.getResult := rfl
@[simp] theorem clearFip_outBuffer : s.clearFip.outBuffer = s.outBuffer := rfl
@[simp] theorem clearFip_rsp : s.clearFip.rsp = s.rsp := rfl
@[simp] theorem clearFip_nowBus : s.clearFip.nowBus = s.nowBus := rfl
@[simp] theorem clearFip_ringEpoch : s.clearFip.ringEpoch = s.ringEpoch := rfl
@[simp] theorem clearFip_schedule : s.clearFip.schedule = s.schedule := rfl
@[simp] theorem clearFip_tail : s.clearFip.tail = s.tail := rfl
@[simp] theorem clearFip_distance : s.clearFip.distance = s.distance := rfl
@[simp] theorem clearFip_ringByte (x : Byte) : s.clearFip.ringByte x = s.ringByte x := rfl

/-! ### setShift -/

@[simp] theorem setShift_cfg (a : Byte) (n : BitVec 3) : (s.setShift a n).cfg = s.cfg := rfl
@[simp] theorem setShift_lastEdge (a : Byte) (n : BitVec 3) : (s.setShift a n).lastEdge = s.lastEdge := rfl
@[simp] theorem setShift_fip (a : Byte) (n : BitVec 3) : (s.setShift a n).fip = s.fip := rfl
@[simp] theorem setShift_pulseCnt (a : Byte) (n : BitVec 3) : (s.setShift a n).pulseCnt = n := rfl
@[simp] theorem setShift_bitAcc (a : Byte) (n : BitVec 3) : (s.setShift a n).bitAcc = a := rfl
@[simp] theorem setShift_byteCnt (a : Byte) (n : BitVec 3) : (s.setShift a n).byteCnt = s.byteCnt := rfl
@[simp] theorem setShift_declaredLen (a : Byte) (n : BitVec 3) : (s.setShift a n).declaredLen = s.declaredLen := rfl
@[simp] theorem setShift_frameStart (a : Byte) (n : BitVec 3) : (s.setShift a n).frameStart = s.frameStart := rfl
@[simp] theorem setShift_writeIndex (a : Byte) (n : BitVec 3) : (s.setShift a n).writeIndex = s.writeIndex := rfl
@[simp] theorem setShift_dropSkip (a : Byte) (n : BitVec 3) : (s.setShift a n).dropSkip = s.dropSkip := rfl
@[simp] theorem setShift_framesBuffered (a : Byte) (n : BitVec 3) : (s.setShift a n).framesBuffered = s.framesBuffered := rfl
@[simp] theorem setShift_readIndex (a : Byte) (n : BitVec 3) : (s.setShift a n).readIndex = s.readIndex := rfl
@[simp] theorem setShift_dropAck (a : Byte) (n : BitVec 3) : (s.setShift a n).dropAck = s.dropAck := rfl
@[simp] theorem setShift_lastSequence (a : Byte) (n : BitVec 3) : (s.setShift a n).lastSequence = s.lastSequence := rfl
@[simp] theorem setShift_ring (a : Byte) (n : BitVec 3) : (s.setShift a n).ring = s.ring := rfl
@[simp] theorem setShift_txSequence (a : Byte) (n : BitVec 3) : (s.setShift a n).txSequence = s.txSequence := rfl
@[simp] theorem setShift_tx (a : Byte) (n : BitVec 3) : (s.setShift a n).tx = s.tx := rfl
@[simp] theorem setShift_txPin (a : Byte) (n : BitVec 3) : (s.setShift a n).txPin = s.txPin := rfl
@[simp] theorem setShift_getCall (a : Byte) (n : BitVec 3) : (s.setShift a n).getCall = s.getCall := rfl
@[simp] theorem setShift_getResult (a : Byte) (n : BitVec 3) : (s.setShift a n).getResult = s.getResult := rfl
@[simp] theorem setShift_outBuffer (a : Byte) (n : BitVec 3) : (s.setShift a n).outBuffer = s.outBuffer := rfl
@[simp] theorem setShift_rsp (a : Byte) (n : BitVec 3) : (s.setShift a n).rsp = s.rsp := rfl
@[simp] theorem setShift_nowBus (a : Byte) (n : BitVec 3) : (s.setShift a n).nowBus = s.nowBus := rfl
@[simp] theorem setShift_ringEpoch (a : Byte) (n : BitVec 3) : (s.setShift a n).ringEpoch = s.ringEpoch := rfl
@[simp] theorem setShift_schedule (a : Byte) (n : BitVec 3) : (s.setShift a n).schedule = s.schedule := rfl
@[simp] theorem setShift_tail (a : Byte) (n : BitVec 3) : (s.setShift a n).tail = s.tail := rfl
@[simp] theorem setShift_distance (a : Byte) (n : BitVec 3) : (s.setShift a n).distance = s.distance := rfl
@[simp] theorem setShift_ringByte (a : Byte) (n : BitVec 3) (x : Byte) : (s.setShift a n).ringByte x = s.ringByte x := rfl

/-! ### setDeclared -/

@[simp] theorem setDeclared_cfg (v : Byte) : (s.setDeclared v).cfg = s.cfg := rfl
@[simp] theorem setDeclared_lastEdge (v : Byte) : (s.setDeclared v).lastEdge = s.lastEdge := rfl
@[simp] theorem setDeclared_fip (v : Byte) : (s.setDeclared v).fip = s.fip := rfl
@[simp] theorem setDeclared_pulseCnt (v : Byte) : (s.setDeclared v).pulseCnt = s.pulseCnt := rfl
@[simp] theorem setDeclared_bitAcc (v : Byte) : (s.setDeclared v).bitAcc = s.bitAcc := rfl
@[simp] theorem setDeclared_byteCnt (v : Byte) : (s.setDeclared v).byteCnt = 1 := rfl
@[simp] theorem setDeclared_declaredLen (v : Byte) : (s.setDeclared v).declaredLen = v := rfl
@[simp] theorem setDeclared_frameStart (v : Byte) : (s.setDeclared v).frameStart = s.frameStart := rfl
@[simp] theorem setDeclared_writeIndex (v : Byte) : (s.setDeclared v).writeIndex = s.writeIndex := rfl
@[simp] theorem setDeclared_dropSkip (v : Byte) : (s.setDeclared v).dropSkip = s.dropSkip := rfl
@[simp] theorem setDeclared_framesBuffered (v : Byte) : (s.setDeclared v).framesBuffered = s.framesBuffered := rfl
@[simp] theorem setDeclared_readIndex (v : Byte) : (s.setDeclared v).readIndex = s.readIndex := rfl
@[simp] theorem setDeclared_dropAck (v : Byte) : (s.setDeclared v).dropAck = s.dropAck := rfl
@[simp] theorem setDeclared_lastSequence (v : Byte) : (s.setDeclared v).lastSequence = s.lastSequence := rfl
@[simp] theorem setDeclared_ring (v : Byte) : (s.setDeclared v).ring = s.ring := rfl
@[simp] theorem setDeclared_txSequence (v : Byte) : (s.setDeclared v).txSequence = s.txSequence := rfl
@[simp] theorem setDeclared_tx (v : Byte) : (s.setDeclared v).tx = s.tx := rfl
@[simp] theorem setDeclared_txPin (v : Byte) : (s.setDeclared v).txPin = s.txPin := rfl
@[simp] theorem setDeclared_getCall (v : Byte) : (s.setDeclared v).getCall = s.getCall := rfl
@[simp] theorem setDeclared_getResult (v : Byte) : (s.setDeclared v).getResult = s.getResult := rfl
@[simp] theorem setDeclared_outBuffer (v : Byte) : (s.setDeclared v).outBuffer = s.outBuffer := rfl
@[simp] theorem setDeclared_rsp (v : Byte) : (s.setDeclared v).rsp = s.rsp := rfl
@[simp] theorem setDeclared_nowBus (v : Byte) : (s.setDeclared v).nowBus = s.nowBus := rfl
@[simp] theorem setDeclared_ringEpoch (v : Byte) : (s.setDeclared v).ringEpoch = s.ringEpoch := rfl
@[simp] theorem setDeclared_schedule (v : Byte) : (s.setDeclared v).schedule = s.schedule := rfl
@[simp] theorem setDeclared_tail (v : Byte) : (s.setDeclared v).tail = s.tail := rfl
@[simp] theorem setDeclared_distance (v : Byte) : (s.setDeclared v).distance = s.distance := rfl
@[simp] theorem setDeclared_ringByte (v : Byte) (x : Byte) : (s.setDeclared v).ringByte x = s.ringByte x := rfl

/-! ### setByteCnt -/

@[simp] theorem setByteCnt_cfg (n : Byte) : (s.setByteCnt n).cfg = s.cfg := rfl
@[simp] theorem setByteCnt_lastEdge (n : Byte) : (s.setByteCnt n).lastEdge = s.lastEdge := rfl
@[simp] theorem setByteCnt_fip (n : Byte) : (s.setByteCnt n).fip = s.fip := rfl
@[simp] theorem setByteCnt_pulseCnt (n : Byte) : (s.setByteCnt n).pulseCnt = s.pulseCnt := rfl
@[simp] theorem setByteCnt_bitAcc (n : Byte) : (s.setByteCnt n).bitAcc = s.bitAcc := rfl
@[simp] theorem setByteCnt_byteCnt (n : Byte) : (s.setByteCnt n).byteCnt = n := rfl
@[simp] theorem setByteCnt_declaredLen (n : Byte) : (s.setByteCnt n).declaredLen = s.declaredLen := rfl
@[simp] theorem setByteCnt_frameStart (n : Byte) : (s.setByteCnt n).frameStart = s.frameStart := rfl
@[simp] theorem setByteCnt_writeIndex (n : Byte) : (s.setByteCnt n).writeIndex = s.writeIndex := rfl
@[simp] theorem setByteCnt_dropSkip (n : Byte) : (s.setByteCnt n).dropSkip = s.dropSkip := rfl
@[simp] theorem setByteCnt_framesBuffered (n : Byte) : (s.setByteCnt n).framesBuffered = s.framesBuffered := rfl
@[simp] theorem setByteCnt_readIndex (n : Byte) : (s.setByteCnt n).readIndex = s.readIndex := rfl
@[simp] theorem setByteCnt_dropAck (n : Byte) : (s.setByteCnt n).dropAck = s.dropAck := rfl
@[simp] theorem setByteCnt_lastSequence (n : Byte) : (s.setByteCnt n).lastSequence = s.lastSequence := rfl
@[simp] theorem setByteCnt_ring (n : Byte) : (s.setByteCnt n).ring = s.ring := rfl
@[simp] theorem setByteCnt_txSequence (n : Byte) : (s.setByteCnt n).txSequence = s.txSequence := rfl
@[simp] theorem setByteCnt_tx (n : Byte) : (s.setByteCnt n).tx = s.tx := rfl
@[simp] theorem setByteCnt_txPin (n : Byte) : (s.setByteCnt n).txPin = s.txPin := rfl
@[simp] theorem setByteCnt_getCall (n : Byte) : (s.setByteCnt n).getCall = s.getCall := rfl
@[simp] theorem setByteCnt_getResult (n : Byte) : (s.setByteCnt n).getResult = s.getResult := rfl
@[simp] theorem setByteCnt_outBuffer (n : Byte) : (s.setByteCnt n).outBuffer = s.outBuffer := rfl
@[simp] theorem setByteCnt_rsp (n : Byte) : (s.setByteCnt n).rsp = s.rsp := rfl
@[simp] theorem setByteCnt_nowBus (n : Byte) : (s.setByteCnt n).nowBus = s.nowBus := rfl
@[simp] theorem setByteCnt_ringEpoch (n : Byte) : (s.setByteCnt n).ringEpoch = s.ringEpoch := rfl
@[simp] theorem setByteCnt_schedule (n : Byte) : (s.setByteCnt n).schedule = s.schedule := rfl
@[simp] theorem setByteCnt_tail (n : Byte) : (s.setByteCnt n).tail = s.tail := rfl
@[simp] theorem setByteCnt_distance (n : Byte) : (s.setByteCnt n).distance = s.distance := rfl
@[simp] theorem setByteCnt_ringByte (n : Byte) (x : Byte) : (s.setByteCnt n).ringByte x = s.ringByte x := rfl

/-! ### setWriteIndex -/

@[simp] theorem setWriteIndex_cfg (w : Byte) : (s.setWriteIndex w).cfg = s.cfg := rfl
@[simp] theorem setWriteIndex_lastEdge (w : Byte) : (s.setWriteIndex w).lastEdge = s.lastEdge := rfl
@[simp] theorem setWriteIndex_fip (w : Byte) : (s.setWriteIndex w).fip = s.fip := rfl
@[simp] theorem setWriteIndex_pulseCnt (w : Byte) : (s.setWriteIndex w).pulseCnt = s.pulseCnt := rfl
@[simp] theorem setWriteIndex_bitAcc (w : Byte) : (s.setWriteIndex w).bitAcc = s.bitAcc := rfl
@[simp] theorem setWriteIndex_byteCnt (w : Byte) : (s.setWriteIndex w).byteCnt = s.byteCnt := rfl
@[simp] theorem setWriteIndex_declaredLen (w : Byte) : (s.setWriteIndex w).declaredLen = s.declaredLen := rfl
@[simp] theorem setWriteIndex_frameStart (w : Byte) : (s.setWriteIndex w).frameStart = s.frameStart := rfl
@[simp] theorem setWriteIndex_writeIndex (w : Byte) : (s.setWriteIndex w).writeIndex = w := rfl
@[simp] theorem setWriteIndex_dropSkip (w : Byte) : (s.setWriteIndex w).dropSkip = s.dropSkip := rfl
@[simp] theorem setWriteIndex_framesBuffered (w : Byte) : (s.setWriteIndex w).framesBuffered = s.framesBuffered := rfl
@[simp] theorem setWriteIndex_readIndex (w : Byte) : (s.setWriteIndex w).readIndex = s.readIndex := rfl
@[simp] theorem setWriteIndex_dropAck (w : Byte) : (s.setWriteIndex w).dropAck = s.dropAck := rfl
@[simp] theorem setWriteIndex_lastSequence (w : Byte) : (s.setWriteIndex w).lastSequence = s.lastSequence := rfl
@[simp] theorem setWriteIndex_ring (w : Byte) : (s.setWriteIndex w).ring = s.ring := rfl
@[simp] theorem setWriteIndex_txSequence (w : Byte) : (s.setWriteIndex w).txSequence = s.txSequence := rfl
@[simp] theorem setWriteIndex_tx (w : Byte) : (s.setWriteIndex w).tx = s.tx := rfl
@[simp] theorem setWriteIndex_txPin (w : Byte) : (s.setWriteIndex w).txPin = s.txPin := rfl
@[simp] theorem setWriteIndex_getCall (w : Byte) : (s.setWriteIndex w).getCall = s.getCall := rfl
@[simp] theorem setWriteIndex_getResult (w : Byte) : (s.setWriteIndex w).getResult = s.getResult := rfl
@[simp] theorem setWriteIndex_outBuffer (w : Byte) : (s.setWriteIndex w).outBuffer = s.outBuffer := rfl
@[simp] theorem setWriteIndex_rsp (w : Byte) : (s.setWriteIndex w).rsp = s.rsp := rfl
@[simp] theorem setWriteIndex_nowBus (w : Byte) : (s.setWriteIndex w).nowBus = s.nowBus := rfl
@[simp] theorem setWriteIndex_ringEpoch (w : Byte) : (s.setWriteIndex w).ringEpoch = s.ringEpoch := rfl
@[simp] theorem setWriteIndex_schedule (w : Byte) : (s.setWriteIndex w).schedule = s.schedule := rfl
@[simp] theorem setWriteIndex_tail (w : Byte) : (s.setWriteIndex w).tail = s.tail := rfl
@[simp] theorem setWriteIndex_ringByte (w : Byte) (x : Byte) : (s.setWriteIndex w).ringByte x = s.ringByte x := rfl

/-! ### setDropped -/

@[simp] theorem setDropped_cfg (k n : Byte) : (s.setDropped k n).cfg = s.cfg := rfl
@[simp] theorem setDropped_lastEdge (k n : Byte) : (s.setDropped k n).lastEdge = s.lastEdge := rfl
@[simp] theorem setDropped_fip (k n : Byte) : (s.setDropped k n).fip = s.fip := rfl
@[simp] theorem setDropped_pulseCnt (k n : Byte) : (s.setDropped k n).pulseCnt = s.pulseCnt := rfl
@[simp] theorem setDropped_bitAcc (k n : Byte) : (s.setDropped k n).bitAcc = s.bitAcc := rfl
@[simp] theorem setDropped_byteCnt (k n : Byte) : (s.setDropped k n).byteCnt = s.byteCnt := rfl
@[simp] theorem setDropped_declaredLen (k n : Byte) : (s.setDropped k n).declaredLen = s.declaredLen := rfl
@[simp] theorem setDropped_frameStart (k n : Byte) : (s.setDropped k n).frameStart = s.frameStart := rfl
@[simp] theorem setDropped_writeIndex (k n : Byte) : (s.setDropped k n).writeIndex = s.writeIndex := rfl
@[simp] theorem setDropped_dropSkip (k n : Byte) : (s.setDropped k n).dropSkip = k := rfl
@[simp] theorem setDropped_framesBuffered (k n : Byte) : (s.setDropped k n).framesBuffered = n := rfl
@[simp] theorem setDropped_readIndex (k n : Byte) : (s.setDropped k n).readIndex = s.readIndex := rfl
@[simp] theorem setDropped_dropAck (k n : Byte) : (s.setDropped k n).dropAck = s.dropAck := rfl
@[simp] theorem setDropped_lastSequence (k n : Byte) : (s.setDropped k n).lastSequence = s.lastSequence := rfl
@[simp] theorem setDropped_ring (k n : Byte) : (s.setDropped k n).ring = s.ring := rfl
@[simp] theorem setDropped_txSequence (k n : Byte) : (s.setDropped k n).txSequence = s.txSequence := rfl
@[simp] theorem setDropped_tx (k n : Byte) : (s.setDropped k n).tx = s.tx := rfl
@[simp] theorem setDropped_txPin (k n : Byte) : (s.setDropped k n).txPin = s.txPin := rfl
@[simp] theorem setDropped_getCall (k n : Byte) : (s.setDropped k n).getCall = s.getCall := rfl
@[simp] theorem setDropped_getResult (k n : Byte) : (s.setDropped k n).getResult = s.getResult := rfl
@[simp] theorem setDropped_outBuffer (k n : Byte) : (s.setDropped k n).outBuffer = s.outBuffer := rfl
@[simp] theorem setDropped_rsp (k n : Byte) : (s.setDropped k n).rsp = s.rsp := rfl
@[simp] theorem setDropped_nowBus (k n : Byte) : (s.setDropped k n).nowBus = s.nowBus := rfl
@[simp] theorem setDropped_ringEpoch (k n : Byte) : (s.setDropped k n).ringEpoch = s.ringEpoch := rfl
@[simp] theorem setDropped_schedule (k n : Byte) : (s.setDropped k n).schedule = s.schedule := rfl
@[simp] theorem setDropped_ringByte (k n : Byte) (x : Byte) : (s.setDropped k n).ringByte x = s.ringByte x := rfl

/-! ### setFrames -/

@[simp] theorem setFrames_cfg (n : Byte) : (s.setFrames n).cfg = s.cfg := rfl
@[simp] theorem setFrames_lastEdge (n : Byte) : (s.setFrames n).lastEdge = s.lastEdge := rfl
@[simp] theorem setFrames_fip (n : Byte) : (s.setFrames n).fip = s.fip := rfl
@[simp] theorem setFrames_pulseCnt (n : Byte) : (s.setFrames n).pulseCnt = s.pulseCnt := rfl
@[simp] theorem setFrames_bitAcc (n : Byte) : (s.setFrames n).bitAcc = s.bitAcc := rfl
@[simp] theorem setFrames_byteCnt (n : Byte) : (s.setFrames n).byteCnt = s.byteCnt := rfl
@[simp] theorem setFrames_declaredLen (n : Byte) : (s.setFrames n).declaredLen = s.declaredLen := rfl
@[simp] theorem setFrames_frameStart (n : Byte) : (s.setFrames n).frameStart = s.frameStart := rfl
@[simp] theorem setFrames_writeIndex (n : Byte) : (s.setFrames n).writeIndex = s.writeIndex := rfl
@[simp] theorem setFrames_dropSkip (n : Byte) : (s.setFrames n).dropSkip = s.dropSkip := rfl
@[simp] theorem setFrames_framesBuffered (n : Byte) : (s.setFrames n).framesBuffered = n := rfl
@[simp] theorem setFrames_readIndex (n : Byte) : (s.setFrames n).readIndex = s.readIndex := rfl
@[simp] theorem setFrames_dropAck (n : Byte) : (s.setFrames n).dropAck = s.dropAck := rfl
@[simp] theorem setFrames_lastSequence (n : Byte) : (s.setFrames n).lastSequence = s.lastSequence := rfl
@[simp] theorem setFrames_ring (n : Byte) : (s.setFrames n).ring = s.ring := rfl
@[simp] theorem setFrames_txSequence (n : Byte) : (s.setFrames n).txSequence = s.txSequence := rfl
@[simp] theorem setFrames_tx (n : Byte) : (s.setFrames n).tx = s.tx := rfl
@[simp] theorem setFrames_txPin (n : Byte) : (s.setFrames n).txPin = s.txPin := rfl
@[simp] theorem setFrames_getCall (n : Byte) : (s.setFrames n).getCall = s.getCall := rfl
@[simp] theorem setFrames_getResult (n : Byte) : (s.setFrames n).getResult = s.getResult := rfl
@[simp] theorem setFrames_outBuffer (n : Byte) : (s.setFrames n).outBuffer = s.outBuffer := rfl
@[simp] theorem setFrames_rsp (n : Byte) : (s.setFrames n).rsp = s.rsp := rfl
@[simp] theorem setFrames_nowBus (n : Byte) : (s.setFrames n).nowBus = s.nowBus := rfl
@[simp] theorem setFrames_ringEpoch (n : Byte) : (s.setFrames n).ringEpoch = s.ringEpoch := rfl
@[simp] theorem setFrames_schedule (n : Byte) : (s.setFrames n).schedule = s.schedule := rfl
@[simp] theorem setFrames_tail (n : Byte) : (s.setFrames n).tail = s.tail := rfl
@[simp] theorem setFrames_distance (n : Byte) : (s.setFrames n).distance = s.distance := rfl
@[simp] theorem setFrames_ringByte (n : Byte) (x : Byte) : (s.setFrames n).ringByte x = s.ringByte x := rfl

/-! ### setReader -/

@[simp] theorem setReader_cfg (r k : Byte) : (s.setReader r k).cfg = s.cfg := rfl
@[simp] theorem setReader_lastEdge (r k : Byte) : (s.setReader r k).lastEdge = s.lastEdge := rfl
@[simp] theorem setReader_fip (r k : Byte) : (s.setReader r k).fip = s.fip := rfl
@[simp] theorem setReader_pulseCnt (r k : Byte) : (s.setReader r k).pulseCnt = s.pulseCnt := rfl
@[simp] theorem setReader_bitAcc (r k : Byte) : (s.setReader r k).bitAcc = s.bitAcc := rfl
@[simp] theorem setReader_byteCnt (r k : Byte) : (s.setReader r k).byteCnt = s.byteCnt := rfl
@[simp] theorem setReader_declaredLen (r k : Byte) : (s.setReader r k).declaredLen = s.declaredLen := rfl
@[simp] theorem setReader_frameStart (r k : Byte) : (s.setReader r k).frameStart = s.frameStart := rfl
@[simp] theorem setReader_writeIndex (r k : Byte) : (s.setReader r k).writeIndex = s.writeIndex := rfl
@[simp] theorem setReader_dropSkip (r k : Byte) : (s.setReader r k).dropSkip = s.dropSkip := rfl
@[simp] theorem setReader_framesBuffered (r k : Byte) : (s.setReader r k).framesBuffered = s.framesBuffered := rfl
@[simp] theorem setReader_readIndex (r k : Byte) : (s.setReader r k).readIndex = r := rfl
@[simp] theorem setReader_dropAck (r k : Byte) : (s.setReader r k).dropAck = k := rfl
@[simp] theorem setReader_lastSequence (r k : Byte) : (s.setReader r k).lastSequence = s.lastSequence := rfl
@[simp] theorem setReader_ring (r k : Byte) : (s.setReader r k).ring = s.ring := rfl
@[simp] theorem setReader_txSequence (r k : Byte) : (s.setReader r k).txSequence = s.txSequence := rfl
@[simp] theorem setReader_tx (r k : Byte) : (s.setReader r k).tx = s.tx := rfl
@[simp] theorem setReader_txPin (r k : Byte) : (s.setReader r k).txPin = s.txPin := rfl
@[simp] theorem setReader_getCall (r k : Byte) : (s.setReader r k).getCall = s.getCall := rfl
@[simp] theorem setReader_getResult (r k : Byte) : (s.setReader r k).getResult = s.getResult := rfl
@[simp] theorem setReader_outBuffer (r k : Byte) : (s.setReader r k).outBuffer = s.outBuffer := rfl
@[simp] theorem setReader_rsp (r k : Byte) : (s.setReader r k).rsp = s.rsp := rfl
@[simp] theorem setReader_nowBus (r k : Byte) : (s.setReader r k).nowBus = s.nowBus := rfl
@[simp] theorem setReader_ringEpoch (r k : Byte) : (s.setReader r k).ringEpoch = s.ringEpoch := rfl
@[simp] theorem setReader_schedule (r k : Byte) : (s.setReader r k).schedule = s.schedule := rfl
@[simp] theorem setReader_ringByte (r k : Byte) (x : Byte) : (s.setReader r k).ringByte x = s.ringByte x := rfl

/-! ### setReleased -/

@[simp] theorem setReleased_cfg (r n : Byte) : (s.setReleased r n).cfg = s.cfg := rfl
@[simp] theorem setReleased_lastEdge (r n : Byte) : (s.setReleased r n).lastEdge = s.lastEdge := rfl
@[simp] theorem setReleased_fip (r n : Byte) : (s.setReleased r n).fip = s.fip := rfl
@[simp] theorem setReleased_pulseCnt (r n : Byte) : (s.setReleased r n).pulseCnt = s.pulseCnt := rfl
@[simp] theorem setReleased_bitAcc (r n : Byte) : (s.setReleased r n).bitAcc = s.bitAcc := rfl
@[simp] theorem setReleased_byteCnt (r n : Byte) : (s.setReleased r n).byteCnt = s.byteCnt := rfl
@[simp] theorem setReleased_declaredLen (r n : Byte) : (s.setReleased r n).declaredLen = s.declaredLen := rfl
@[simp] theorem setReleased_frameStart (r n : Byte) : (s.setReleased r n).frameStart = s.frameStart := rfl
@[simp] theorem setReleased_writeIndex (r n : Byte) : (s.setReleased r n).writeIndex = s.writeIndex := rfl
@[simp] theorem setReleased_dropSkip (r n : Byte) : (s.setReleased r n).dropSkip = s.dropSkip := rfl
@[simp] theorem setReleased_framesBuffered (r n : Byte) : (s.setReleased r n).framesBuffered = n := rfl
@[simp] theorem setReleased_readIndex (r n : Byte) : (s.setReleased r n).readIndex = r := rfl
@[simp] theorem setReleased_dropAck (r n : Byte) : (s.setReleased r n).dropAck = s.dropAck := rfl
@[simp] theorem setReleased_lastSequence (r n : Byte) : (s.setReleased r n).lastSequence = s.lastSequence := rfl
@[simp] theorem setReleased_ring (r n : Byte) : (s.setReleased r n).ring = s.ring := rfl
@[simp] theorem setReleased_txSequence (r n : Byte) : (s.setReleased r n).txSequence = s.txSequence := rfl
@[simp] theorem setReleased_tx (r n : Byte) : (s.setReleased r n).tx = s.tx := rfl
@[simp] theorem setReleased_txPin (r n : Byte) : (s.setReleased r n).txPin = s.txPin := rfl
@[simp] theorem setReleased_getCall (r n : Byte) : (s.setReleased r n).getCall = s.getCall := rfl
@[simp] theorem setReleased_getResult (r n : Byte) : (s.setReleased r n).getResult = s.getResult := rfl
@[simp] theorem setReleased_outBuffer (r n : Byte) : (s.setReleased r n).outBuffer = s.outBuffer := rfl
@[simp] theorem setReleased_rsp (r n : Byte) : (s.setReleased r n).rsp = s.rsp := rfl
@[simp] theorem setReleased_nowBus (r n : Byte) : (s.setReleased r n).nowBus = s.nowBus := rfl
@[simp] theorem setReleased_ringEpoch (r n : Byte) : (s.setReleased r n).ringEpoch = s.ringEpoch := rfl
@[simp] theorem setReleased_schedule (r n : Byte) : (s.setReleased r n).schedule = s.schedule := rfl
@[simp] theorem setReleased_ringByte (r n : Byte) (x : Byte) : (s.setReleased r n).ringByte x = s.ringByte x := rfl

/-! ### setLastSequence -/

@[simp] theorem setLastSequence_cfg (q : Option Byte) : (s.setLastSequence q).cfg = s.cfg := rfl
@[simp] theorem setLastSequence_lastEdge (q : Option Byte) : (s.setLastSequence q).lastEdge = s.lastEdge := rfl
@[simp] theorem setLastSequence_fip (q : Option Byte) : (s.setLastSequence q).fip = s.fip := rfl
@[simp] theorem setLastSequence_pulseCnt (q : Option Byte) : (s.setLastSequence q).pulseCnt = s.pulseCnt := rfl
@[simp] theorem setLastSequence_bitAcc (q : Option Byte) : (s.setLastSequence q).bitAcc = s.bitAcc := rfl
@[simp] theorem setLastSequence_byteCnt (q : Option Byte) : (s.setLastSequence q).byteCnt = s.byteCnt := rfl
@[simp] theorem setLastSequence_declaredLen (q : Option Byte) : (s.setLastSequence q).declaredLen = s.declaredLen := rfl
@[simp] theorem setLastSequence_frameStart (q : Option Byte) : (s.setLastSequence q).frameStart = s.frameStart := rfl
@[simp] theorem setLastSequence_writeIndex (q : Option Byte) : (s.setLastSequence q).writeIndex = s.writeIndex := rfl
@[simp] theorem setLastSequence_dropSkip (q : Option Byte) : (s.setLastSequence q).dropSkip = s.dropSkip := rfl
@[simp] theorem setLastSequence_framesBuffered (q : Option Byte) : (s.setLastSequence q).framesBuffered = s.framesBuffered := rfl
@[simp] theorem setLastSequence_readIndex (q : Option Byte) : (s.setLastSequence q).readIndex = s.readIndex := rfl
@[simp] theorem setLastSequence_dropAck (q : Option Byte) : (s.setLastSequence q).dropAck = s.dropAck := rfl
@[simp] theorem setLastSequence_lastSequence (q : Option Byte) : (s.setLastSequence q).lastSequence = q := rfl
@[simp] theorem setLastSequence_ring (q : Option Byte) : (s.setLastSequence q).ring = s.ring := rfl
@[simp] theorem setLastSequence_txSequence (q : Option Byte) : (s.setLastSequence q).txSequence = s.txSequence := rfl
@[simp] theorem setLastSequence_tx (q : Option Byte) : (s.setLastSequence q).tx = s.tx := rfl
@[simp] theorem setLastSequence_txPin (q : Option Byte) : (s.setLastSequence q).txPin = s.txPin := rfl
@[simp] theorem setLastSequence_getCall (q : Option Byte) : (s.setLastSequence q).getCall = s.getCall := rfl
@[simp] theorem setLastSequence_getResult (q : Option Byte) : (s.setLastSequence q).getResult = s.getResult := rfl
@[simp] theorem setLastSequence_outBuffer (q : Option Byte) : (s.setLastSequence q).outBuffer = s.outBuffer := rfl
@[simp] theorem setLastSequence_rsp (q : Option Byte) : (s.setLastSequence q).rsp = s.rsp := rfl
@[simp] theorem setLastSequence_nowBus (q : Option Byte) : (s.setLastSequence q).nowBus = s.nowBus := rfl
@[simp] theorem setLastSequence_ringEpoch (q : Option Byte) : (s.setLastSequence q).ringEpoch = s.ringEpoch := rfl
@[simp] theorem setLastSequence_schedule (q : Option Byte) : (s.setLastSequence q).schedule = s.schedule := rfl
@[simp] theorem setLastSequence_tail (q : Option Byte) : (s.setLastSequence q).tail = s.tail := rfl
@[simp] theorem setLastSequence_distance (q : Option Byte) : (s.setLastSequence q).distance = s.distance := rfl
@[simp] theorem setLastSequence_ringByte (q : Option Byte) (x : Byte) : (s.setLastSequence q).ringByte x = s.ringByte x := rfl

/-! ### clearReceiver -/

@[simp] theorem clearReceiver_cfg : s.clearReceiver.cfg = s.cfg := rfl
@[simp] theorem clearReceiver_lastEdge : s.clearReceiver.lastEdge = 0 := rfl
@[simp] theorem clearReceiver_fip : s.clearReceiver.fip = false := rfl
@[simp] theorem clearReceiver_pulseCnt : s.clearReceiver.pulseCnt = 0 := rfl
@[simp] theorem clearReceiver_bitAcc : s.clearReceiver.bitAcc = 0 := rfl
@[simp] theorem clearReceiver_byteCnt : s.clearReceiver.byteCnt = 0 := rfl
@[simp] theorem clearReceiver_declaredLen : s.clearReceiver.declaredLen = 0 := rfl
@[simp] theorem clearReceiver_frameStart : s.clearReceiver.frameStart = 0 := rfl
@[simp] theorem clearReceiver_writeIndex : s.clearReceiver.writeIndex = 0 := rfl
@[simp] theorem clearReceiver_dropSkip : s.clearReceiver.dropSkip = 0 := rfl
@[simp] theorem clearReceiver_framesBuffered : s.clearReceiver.framesBuffered = 0 := rfl
@[simp] theorem clearReceiver_readIndex : s.clearReceiver.readIndex = 0 := rfl
@[simp] theorem clearReceiver_dropAck : s.clearReceiver.dropAck = 0 := rfl
@[simp] theorem clearReceiver_lastSequence : s.clearReceiver.lastSequence = none := rfl
@[simp] theorem clearReceiver_ring : s.clearReceiver.ring = [] := rfl
@[simp] theorem clearReceiver_txSequence : s.clearReceiver.txSequence = s.txSequence := rfl
@[simp] theorem clearReceiver_tx : s.clearReceiver.tx = s.tx := rfl
@[simp] theorem clearReceiver_txPin : s.clearReceiver.txPin = s.txPin := rfl
@[simp] theorem clearReceiver_getCall : s.clearReceiver.getCall = s.getCall := rfl
@[simp] theorem clearReceiver_getResult : s.clearReceiver.getResult = s.getResult := rfl
@[simp] theorem clearReceiver_outBuffer : s.clearReceiver.outBuffer = s.outBuffer := rfl
@[simp] theorem clearReceiver_rsp : s.clearReceiver.rsp = s.rsp := rfl
@[simp] theorem clearReceiver_nowBus : s.clearReceiver.nowBus = s.nowBus := rfl
@[simp] theorem clearReceiver_ringEpoch : s.clearReceiver.ringEpoch = s.ringEpoch + 1 := rfl
@[simp] theorem clearReceiver_schedule : s.clearReceiver.schedule = s.schedule := rfl

/-! ### silent -/

@[simp] theorem silent_cfg : s.silent.cfg = s.cfg := rfl
@[simp] theorem silent_lastEdge : s.silent.lastEdge = s.lastEdge := rfl
@[simp] theorem silent_fip : s.silent.fip = s.fip := rfl
@[simp] theorem silent_pulseCnt : s.silent.pulseCnt = s.pulseCnt := rfl
@[simp] theorem silent_bitAcc : s.silent.bitAcc = s.bitAcc := rfl
@[simp] theorem silent_byteCnt : s.silent.byteCnt = s.byteCnt := rfl
@[simp] theorem silent_declaredLen : s.silent.declaredLen = s.declaredLen := rfl
@[simp] theorem silent_frameStart : s.silent.frameStart = s.frameStart := rfl
@[simp] theorem silent_writeIndex : s.silent.writeIndex = s.writeIndex := rfl
@[simp] theorem silent_dropSkip : s.silent.dropSkip = s.dropSkip := rfl
@[simp] theorem silent_framesBuffered : s.silent.framesBuffered = s.framesBuffered := rfl
@[simp] theorem silent_readIndex : s.silent.readIndex = s.readIndex := rfl
@[simp] theorem silent_dropAck : s.silent.dropAck = s.dropAck := rfl
@[simp] theorem silent_lastSequence : s.silent.lastSequence = s.lastSequence := rfl
@[simp] theorem silent_ring : s.silent.ring = s.ring := rfl
@[simp] theorem silent_txSequence : s.silent.txSequence = s.txSequence := rfl
@[simp] theorem silent_tx : s.silent.tx = s.tx := rfl
@[simp] theorem silent_txPin : s.silent.txPin = s.txPin := rfl
@[simp] theorem silent_getCall : s.silent.getCall = s.getCall := rfl
@[simp] theorem silent_getResult : s.silent.getResult = s.getResult := rfl
@[simp] theorem silent_outBuffer : s.silent.outBuffer = s.outBuffer := rfl
@[simp] theorem silent_rsp : s.silent.rsp = none := rfl
@[simp] theorem silent_nowBus : s.silent.nowBus = s.nowBus := rfl
@[simp] theorem silent_ringEpoch : s.silent.ringEpoch = s.ringEpoch := rfl
@[simp] theorem silent_schedule : s.silent.schedule = s.schedule := rfl
@[simp] theorem silent_tail : s.silent.tail = s.tail := rfl
@[simp] theorem silent_distance : s.silent.distance = s.distance := rfl
@[simp] theorem silent_ringByte (x : Byte) : s.silent.ringByte x = s.ringByte x := rfl

/-! ### setRsp -/

@[simp] theorem setRsp_cfg (r : BitVec 10) : (s.setRsp r).cfg = s.cfg := rfl
@[simp] theorem setRsp_lastEdge (r : BitVec 10) : (s.setRsp r).lastEdge = s.lastEdge := rfl
@[simp] theorem setRsp_fip (r : BitVec 10) : (s.setRsp r).fip = s.fip := rfl
@[simp] theorem setRsp_pulseCnt (r : BitVec 10) : (s.setRsp r).pulseCnt = s.pulseCnt := rfl
@[simp] theorem setRsp_bitAcc (r : BitVec 10) : (s.setRsp r).bitAcc = s.bitAcc := rfl
@[simp] theorem setRsp_byteCnt (r : BitVec 10) : (s.setRsp r).byteCnt = s.byteCnt := rfl
@[simp] theorem setRsp_declaredLen (r : BitVec 10) : (s.setRsp r).declaredLen = s.declaredLen := rfl
@[simp] theorem setRsp_frameStart (r : BitVec 10) : (s.setRsp r).frameStart = s.frameStart := rfl
@[simp] theorem setRsp_writeIndex (r : BitVec 10) : (s.setRsp r).writeIndex = s.writeIndex := rfl
@[simp] theorem setRsp_dropSkip (r : BitVec 10) : (s.setRsp r).dropSkip = s.dropSkip := rfl
@[simp] theorem setRsp_framesBuffered (r : BitVec 10) : (s.setRsp r).framesBuffered = s.framesBuffered := rfl
@[simp] theorem setRsp_readIndex (r : BitVec 10) : (s.setRsp r).readIndex = s.readIndex := rfl
@[simp] theorem setRsp_dropAck (r : BitVec 10) : (s.setRsp r).dropAck = s.dropAck := rfl
@[simp] theorem setRsp_lastSequence (r : BitVec 10) : (s.setRsp r).lastSequence = s.lastSequence := rfl
@[simp] theorem setRsp_ring (r : BitVec 10) : (s.setRsp r).ring = s.ring := rfl
@[simp] theorem setRsp_txSequence (r : BitVec 10) : (s.setRsp r).txSequence = s.txSequence := rfl
@[simp] theorem setRsp_tx (r : BitVec 10) : (s.setRsp r).tx = s.tx := rfl
@[simp] theorem setRsp_txPin (r : BitVec 10) : (s.setRsp r).txPin = s.txPin := rfl
@[simp] theorem setRsp_getCall (r : BitVec 10) : (s.setRsp r).getCall = s.getCall := rfl
@[simp] theorem setRsp_getResult (r : BitVec 10) : (s.setRsp r).getResult = s.getResult := rfl
@[simp] theorem setRsp_outBuffer (r : BitVec 10) : (s.setRsp r).outBuffer = s.outBuffer := rfl
@[simp] theorem setRsp_rsp (r : BitVec 10) : (s.setRsp r).rsp = some r := rfl
@[simp] theorem setRsp_nowBus (r : BitVec 10) : (s.setRsp r).nowBus = s.nowBus := rfl
@[simp] theorem setRsp_ringEpoch (r : BitVec 10) : (s.setRsp r).ringEpoch = s.ringEpoch := rfl
@[simp] theorem setRsp_schedule (r : BitVec 10) : (s.setRsp r).schedule = s.schedule := rfl
@[simp] theorem setRsp_tail (r : BitVec 10) : (s.setRsp r).tail = s.tail := rfl
@[simp] theorem setRsp_distance (r : BitVec 10) : (s.setRsp r).distance = s.distance := rfl
@[simp] theorem setRsp_ringByte (r : BitVec 10) (x : Byte) : (s.setRsp r).ringByte x = s.ringByte x := rfl

/-! ### respond -/

@[simp] theorem respond_cfg (rc : ReturnCode) (d : Byte) : (s.respond rc d).cfg = s.cfg := rfl
@[simp] theorem respond_lastEdge (rc : ReturnCode) (d : Byte) : (s.respond rc d).lastEdge = s.lastEdge := rfl
@[simp] theorem respond_fip (rc : ReturnCode) (d : Byte) : (s.respond rc d).fip = s.fip := rfl
@[simp] theorem respond_pulseCnt (rc : ReturnCode) (d : Byte) : (s.respond rc d).pulseCnt = s.pulseCnt := rfl
@[simp] theorem respond_bitAcc (rc : ReturnCode) (d : Byte) : (s.respond rc d).bitAcc = s.bitAcc := rfl
@[simp] theorem respond_byteCnt (rc : ReturnCode) (d : Byte) : (s.respond rc d).byteCnt = s.byteCnt := rfl
@[simp] theorem respond_declaredLen (rc : ReturnCode) (d : Byte) : (s.respond rc d).declaredLen = s.declaredLen := rfl
@[simp] theorem respond_frameStart (rc : ReturnCode) (d : Byte) : (s.respond rc d).frameStart = s.frameStart := rfl
@[simp] theorem respond_writeIndex (rc : ReturnCode) (d : Byte) : (s.respond rc d).writeIndex = s.writeIndex := rfl
@[simp] theorem respond_dropSkip (rc : ReturnCode) (d : Byte) : (s.respond rc d).dropSkip = s.dropSkip := rfl
@[simp] theorem respond_framesBuffered (rc : ReturnCode) (d : Byte) : (s.respond rc d).framesBuffered = s.framesBuffered := rfl
@[simp] theorem respond_readIndex (rc : ReturnCode) (d : Byte) : (s.respond rc d).readIndex = s.readIndex := rfl
@[simp] theorem respond_dropAck (rc : ReturnCode) (d : Byte) : (s.respond rc d).dropAck = s.dropAck := rfl
@[simp] theorem respond_lastSequence (rc : ReturnCode) (d : Byte) : (s.respond rc d).lastSequence = s.lastSequence := rfl
@[simp] theorem respond_ring (rc : ReturnCode) (d : Byte) : (s.respond rc d).ring = s.ring := rfl
@[simp] theorem respond_txSequence (rc : ReturnCode) (d : Byte) : (s.respond rc d).txSequence = s.txSequence := rfl
@[simp] theorem respond_tx (rc : ReturnCode) (d : Byte) : (s.respond rc d).tx = s.tx := rfl
@[simp] theorem respond_txPin (rc : ReturnCode) (d : Byte) : (s.respond rc d).txPin = s.txPin := rfl
@[simp] theorem respond_getCall (rc : ReturnCode) (d : Byte) : (s.respond rc d).getCall = s.getCall := rfl
@[simp] theorem respond_getResult (rc : ReturnCode) (d : Byte) : (s.respond rc d).getResult = s.getResult := rfl
@[simp] theorem respond_outBuffer (rc : ReturnCode) (d : Byte) : (s.respond rc d).outBuffer = s.outBuffer := rfl
@[simp] theorem respond_rsp (rc : ReturnCode) (d : Byte) : (s.respond rc d).rsp = some (rspWord rc d) := rfl
@[simp] theorem respond_nowBus (rc : ReturnCode) (d : Byte) : (s.respond rc d).nowBus = s.nowBus := rfl
@[simp] theorem respond_ringEpoch (rc : ReturnCode) (d : Byte) : (s.respond rc d).ringEpoch = s.ringEpoch := rfl
@[simp] theorem respond_schedule (rc : ReturnCode) (d : Byte) : (s.respond rc d).schedule = s.schedule := rfl
@[simp] theorem respond_tail (rc : ReturnCode) (d : Byte) : (s.respond rc d).tail = s.tail := rfl
@[simp] theorem respond_distance (rc : ReturnCode) (d : Byte) : (s.respond rc d).distance = s.distance := rfl
@[simp] theorem respond_ringByte (rc : ReturnCode) (d : Byte) (x : Byte) : (s.respond rc d).ringByte x = s.ringByte x := rfl

/-! ### setNowBus -/

@[simp] theorem setNowBus_cfg (t : Stamp) : (s.setNowBus t).cfg = s.cfg := rfl
@[simp] theorem setNowBus_lastEdge (t : Stamp) : (s.setNowBus t).lastEdge = s.lastEdge := rfl
@[simp] theorem setNowBus_fip (t : Stamp) : (s.setNowBus t).fip = s.fip := rfl
@[simp] theorem setNowBus_pulseCnt (t : Stamp) : (s.setNowBus t).pulseCnt = s.pulseCnt := rfl
@[simp] theorem setNowBus_bitAcc (t : Stamp) : (s.setNowBus t).bitAcc = s.bitAcc := rfl
@[simp] theorem setNowBus_byteCnt (t : Stamp) : (s.setNowBus t).byteCnt = s.byteCnt := rfl
@[simp] theorem setNowBus_declaredLen (t : Stamp) : (s.setNowBus t).declaredLen = s.declaredLen := rfl
@[simp] theorem setNowBus_frameStart (t : Stamp) : (s.setNowBus t).frameStart = s.frameStart := rfl
@[simp] theorem setNowBus_writeIndex (t : Stamp) : (s.setNowBus t).writeIndex = s.writeIndex := rfl
@[simp] theorem setNowBus_dropSkip (t : Stamp) : (s.setNowBus t).dropSkip = s.dropSkip := rfl
@[simp] theorem setNowBus_framesBuffered (t : Stamp) : (s.setNowBus t).framesBuffered = s.framesBuffered := rfl
@[simp] theorem setNowBus_readIndex (t : Stamp) : (s.setNowBus t).readIndex = s.readIndex := rfl
@[simp] theorem setNowBus_dropAck (t : Stamp) : (s.setNowBus t).dropAck = s.dropAck := rfl
@[simp] theorem setNowBus_lastSequence (t : Stamp) : (s.setNowBus t).lastSequence = s.lastSequence := rfl
@[simp] theorem setNowBus_ring (t : Stamp) : (s.setNowBus t).ring = s.ring := rfl
@[simp] theorem setNowBus_txSequence (t : Stamp) : (s.setNowBus t).txSequence = s.txSequence := rfl
@[simp] theorem setNowBus_tx (t : Stamp) : (s.setNowBus t).tx = s.tx := rfl
@[simp] theorem setNowBus_txPin (t : Stamp) : (s.setNowBus t).txPin = s.txPin := rfl
@[simp] theorem setNowBus_getCall (t : Stamp) : (s.setNowBus t).getCall = s.getCall := rfl
@[simp] theorem setNowBus_getResult (t : Stamp) : (s.setNowBus t).getResult = s.getResult := rfl
@[simp] theorem setNowBus_outBuffer (t : Stamp) : (s.setNowBus t).outBuffer = s.outBuffer := rfl
@[simp] theorem setNowBus_rsp (t : Stamp) : (s.setNowBus t).rsp = s.rsp := rfl
@[simp] theorem setNowBus_nowBus (t : Stamp) : (s.setNowBus t).nowBus = s.cfg.stamp t := rfl
@[simp] theorem setNowBus_ringEpoch (t : Stamp) : (s.setNowBus t).ringEpoch = s.ringEpoch := rfl
@[simp] theorem setNowBus_schedule (t : Stamp) : (s.setNowBus t).schedule = s.schedule := rfl
@[simp] theorem setNowBus_tail (t : Stamp) : (s.setNowBus t).tail = s.tail := rfl
@[simp] theorem setNowBus_distance (t : Stamp) : (s.setNowBus t).distance = s.distance := rfl
@[simp] theorem setNowBus_ringByte (t : Stamp) (x : Byte) : (s.setNowBus t).ringByte x = s.ringByte x := rfl

/-! ### setSchedule -/

@[simp] theorem setSchedule_cfg (rs : List Request) : (s.setSchedule rs).cfg = s.cfg := rfl
@[simp] theorem setSchedule_lastEdge (rs : List Request) : (s.setSchedule rs).lastEdge = s.lastEdge := rfl
@[simp] theorem setSchedule_fip (rs : List Request) : (s.setSchedule rs).fip = s.fip := rfl
@[simp] theorem setSchedule_pulseCnt (rs : List Request) : (s.setSchedule rs).pulseCnt = s.pulseCnt := rfl
@[simp] theorem setSchedule_bitAcc (rs : List Request) : (s.setSchedule rs).bitAcc = s.bitAcc := rfl
@[simp] theorem setSchedule_byteCnt (rs : List Request) : (s.setSchedule rs).byteCnt = s.byteCnt := rfl
@[simp] theorem setSchedule_declaredLen (rs : List Request) : (s.setSchedule rs).declaredLen = s.declaredLen := rfl
@[simp] theorem setSchedule_frameStart (rs : List Request) : (s.setSchedule rs).frameStart = s.frameStart := rfl
@[simp] theorem setSchedule_writeIndex (rs : List Request) : (s.setSchedule rs).writeIndex = s.writeIndex := rfl
@[simp] theorem setSchedule_dropSkip (rs : List Request) : (s.setSchedule rs).dropSkip = s.dropSkip := rfl
@[simp] theorem setSchedule_framesBuffered (rs : List Request) : (s.setSchedule rs).framesBuffered = s.framesBuffered := rfl
@[simp] theorem setSchedule_readIndex (rs : List Request) : (s.setSchedule rs).readIndex = s.readIndex := rfl
@[simp] theorem setSchedule_dropAck (rs : List Request) : (s.setSchedule rs).dropAck = s.dropAck := rfl
@[simp] theorem setSchedule_lastSequence (rs : List Request) : (s.setSchedule rs).lastSequence = s.lastSequence := rfl
@[simp] theorem setSchedule_ring (rs : List Request) : (s.setSchedule rs).ring = s.ring := rfl
@[simp] theorem setSchedule_txSequence (rs : List Request) : (s.setSchedule rs).txSequence = s.txSequence := rfl
@[simp] theorem setSchedule_tx (rs : List Request) : (s.setSchedule rs).tx = s.tx := rfl
@[simp] theorem setSchedule_txPin (rs : List Request) : (s.setSchedule rs).txPin = s.txPin := rfl
@[simp] theorem setSchedule_getCall (rs : List Request) : (s.setSchedule rs).getCall = s.getCall := rfl
@[simp] theorem setSchedule_getResult (rs : List Request) : (s.setSchedule rs).getResult = s.getResult := rfl
@[simp] theorem setSchedule_outBuffer (rs : List Request) : (s.setSchedule rs).outBuffer = s.outBuffer := rfl
@[simp] theorem setSchedule_rsp (rs : List Request) : (s.setSchedule rs).rsp = s.rsp := rfl
@[simp] theorem setSchedule_nowBus (rs : List Request) : (s.setSchedule rs).nowBus = s.nowBus := rfl
@[simp] theorem setSchedule_ringEpoch (rs : List Request) : (s.setSchedule rs).ringEpoch = s.ringEpoch := rfl
@[simp] theorem setSchedule_schedule (rs : List Request) : (s.setSchedule rs).schedule = rs := rfl
@[simp] theorem setSchedule_tail (rs : List Request) : (s.setSchedule rs).tail = s.tail := rfl
@[simp] theorem setSchedule_distance (rs : List Request) : (s.setSchedule rs).distance = s.distance := rfl
@[simp] theorem setSchedule_ringByte (rs : List Request) (x : Byte) : (s.setSchedule rs).ringByte x = s.ringByte x := rfl

/-! ### setGetCall -/

@[simp] theorem setGetCall_cfg (g : Option GetCall) : (s.setGetCall g).cfg = s.cfg := rfl
@[simp] theorem setGetCall_lastEdge (g : Option GetCall) : (s.setGetCall g).lastEdge = s.lastEdge := rfl
@[simp] theorem setGetCall_fip (g : Option GetCall) : (s.setGetCall g).fip = s.fip := rfl
@[simp] theorem setGetCall_pulseCnt (g : Option GetCall) : (s.setGetCall g).pulseCnt = s.pulseCnt := rfl
@[simp] theorem setGetCall_bitAcc (g : Option GetCall) : (s.setGetCall g).bitAcc = s.bitAcc := rfl
@[simp] theorem setGetCall_byteCnt (g : Option GetCall) : (s.setGetCall g).byteCnt = s.byteCnt := rfl
@[simp] theorem setGetCall_declaredLen (g : Option GetCall) : (s.setGetCall g).declaredLen = s.declaredLen := rfl
@[simp] theorem setGetCall_frameStart (g : Option GetCall) : (s.setGetCall g).frameStart = s.frameStart := rfl
@[simp] theorem setGetCall_writeIndex (g : Option GetCall) : (s.setGetCall g).writeIndex = s.writeIndex := rfl
@[simp] theorem setGetCall_dropSkip (g : Option GetCall) : (s.setGetCall g).dropSkip = s.dropSkip := rfl
@[simp] theorem setGetCall_framesBuffered (g : Option GetCall) : (s.setGetCall g).framesBuffered = s.framesBuffered := rfl
@[simp] theorem setGetCall_readIndex (g : Option GetCall) : (s.setGetCall g).readIndex = s.readIndex := rfl
@[simp] theorem setGetCall_dropAck (g : Option GetCall) : (s.setGetCall g).dropAck = s.dropAck := rfl
@[simp] theorem setGetCall_lastSequence (g : Option GetCall) : (s.setGetCall g).lastSequence = s.lastSequence := rfl
@[simp] theorem setGetCall_ring (g : Option GetCall) : (s.setGetCall g).ring = s.ring := rfl
@[simp] theorem setGetCall_txSequence (g : Option GetCall) : (s.setGetCall g).txSequence = s.txSequence := rfl
@[simp] theorem setGetCall_tx (g : Option GetCall) : (s.setGetCall g).tx = s.tx := rfl
@[simp] theorem setGetCall_txPin (g : Option GetCall) : (s.setGetCall g).txPin = s.txPin := rfl
@[simp] theorem setGetCall_getCall (g : Option GetCall) : (s.setGetCall g).getCall = g := rfl
@[simp] theorem setGetCall_getResult (g : Option GetCall) : (s.setGetCall g).getResult = s.getResult := rfl
@[simp] theorem setGetCall_outBuffer (g : Option GetCall) : (s.setGetCall g).outBuffer = s.outBuffer := rfl
@[simp] theorem setGetCall_rsp (g : Option GetCall) : (s.setGetCall g).rsp = s.rsp := rfl
@[simp] theorem setGetCall_nowBus (g : Option GetCall) : (s.setGetCall g).nowBus = s.nowBus := rfl
@[simp] theorem setGetCall_ringEpoch (g : Option GetCall) : (s.setGetCall g).ringEpoch = s.ringEpoch := rfl
@[simp] theorem setGetCall_schedule (g : Option GetCall) : (s.setGetCall g).schedule = s.schedule := rfl
@[simp] theorem setGetCall_tail (g : Option GetCall) : (s.setGetCall g).tail = s.tail := rfl
@[simp] theorem setGetCall_distance (g : Option GetCall) : (s.setGetCall g).distance = s.distance := rfl
@[simp] theorem setGetCall_ringByte (g : Option GetCall) (x : Byte) : (s.setGetCall g).ringByte x = s.ringByte x := rfl

/-! ### setGetResult -/

@[simp] theorem setGetResult_cfg (r : Option GetResult) : (s.setGetResult r).cfg = s.cfg := rfl
@[simp] theorem setGetResult_lastEdge (r : Option GetResult) : (s.setGetResult r).lastEdge = s.lastEdge := rfl
@[simp] theorem setGetResult_fip (r : Option GetResult) : (s.setGetResult r).fip = s.fip := rfl
@[simp] theorem setGetResult_pulseCnt (r : Option GetResult) : (s.setGetResult r).pulseCnt = s.pulseCnt := rfl
@[simp] theorem setGetResult_bitAcc (r : Option GetResult) : (s.setGetResult r).bitAcc = s.bitAcc := rfl
@[simp] theorem setGetResult_byteCnt (r : Option GetResult) : (s.setGetResult r).byteCnt = s.byteCnt := rfl
@[simp] theorem setGetResult_declaredLen (r : Option GetResult) : (s.setGetResult r).declaredLen = s.declaredLen := rfl
@[simp] theorem setGetResult_frameStart (r : Option GetResult) : (s.setGetResult r).frameStart = s.frameStart := rfl
@[simp] theorem setGetResult_writeIndex (r : Option GetResult) : (s.setGetResult r).writeIndex = s.writeIndex := rfl
@[simp] theorem setGetResult_dropSkip (r : Option GetResult) : (s.setGetResult r).dropSkip = s.dropSkip := rfl
@[simp] theorem setGetResult_framesBuffered (r : Option GetResult) : (s.setGetResult r).framesBuffered = s.framesBuffered := rfl
@[simp] theorem setGetResult_readIndex (r : Option GetResult) : (s.setGetResult r).readIndex = s.readIndex := rfl
@[simp] theorem setGetResult_dropAck (r : Option GetResult) : (s.setGetResult r).dropAck = s.dropAck := rfl
@[simp] theorem setGetResult_lastSequence (r : Option GetResult) : (s.setGetResult r).lastSequence = s.lastSequence := rfl
@[simp] theorem setGetResult_ring (r : Option GetResult) : (s.setGetResult r).ring = s.ring := rfl
@[simp] theorem setGetResult_txSequence (r : Option GetResult) : (s.setGetResult r).txSequence = s.txSequence := rfl
@[simp] theorem setGetResult_tx (r : Option GetResult) : (s.setGetResult r).tx = s.tx := rfl
@[simp] theorem setGetResult_txPin (r : Option GetResult) : (s.setGetResult r).txPin = s.txPin := rfl
@[simp] theorem setGetResult_getCall (r : Option GetResult) : (s.setGetResult r).getCall = s.getCall := rfl
@[simp] theorem setGetResult_getResult (r : Option GetResult) : (s.setGetResult r).getResult = r := rfl
@[simp] theorem setGetResult_outBuffer (r : Option GetResult) : (s.setGetResult r).outBuffer = s.outBuffer := rfl
@[simp] theorem setGetResult_rsp (r : Option GetResult) : (s.setGetResult r).rsp = s.rsp := rfl
@[simp] theorem setGetResult_nowBus (r : Option GetResult) : (s.setGetResult r).nowBus = s.nowBus := rfl
@[simp] theorem setGetResult_ringEpoch (r : Option GetResult) : (s.setGetResult r).ringEpoch = s.ringEpoch := rfl
@[simp] theorem setGetResult_schedule (r : Option GetResult) : (s.setGetResult r).schedule = s.schedule := rfl
@[simp] theorem setGetResult_tail (r : Option GetResult) : (s.setGetResult r).tail = s.tail := rfl
@[simp] theorem setGetResult_distance (r : Option GetResult) : (s.setGetResult r).distance = s.distance := rfl
@[simp] theorem setGetResult_ringByte (r : Option GetResult) (x : Byte) : (s.setGetResult r).ringByte x = s.ringByte x := rfl

/-! ### writeOut -/

@[simp] theorem writeOut_cfg (i : Nat) (v : Byte) : (s.writeOut i v).cfg = s.cfg := rfl
@[simp] theorem writeOut_lastEdge (i : Nat) (v : Byte) : (s.writeOut i v).lastEdge = s.lastEdge := rfl
@[simp] theorem writeOut_fip (i : Nat) (v : Byte) : (s.writeOut i v).fip = s.fip := rfl
@[simp] theorem writeOut_pulseCnt (i : Nat) (v : Byte) : (s.writeOut i v).pulseCnt = s.pulseCnt := rfl
@[simp] theorem writeOut_bitAcc (i : Nat) (v : Byte) : (s.writeOut i v).bitAcc = s.bitAcc := rfl
@[simp] theorem writeOut_byteCnt (i : Nat) (v : Byte) : (s.writeOut i v).byteCnt = s.byteCnt := rfl
@[simp] theorem writeOut_declaredLen (i : Nat) (v : Byte) : (s.writeOut i v).declaredLen = s.declaredLen := rfl
@[simp] theorem writeOut_frameStart (i : Nat) (v : Byte) : (s.writeOut i v).frameStart = s.frameStart := rfl
@[simp] theorem writeOut_writeIndex (i : Nat) (v : Byte) : (s.writeOut i v).writeIndex = s.writeIndex := rfl
@[simp] theorem writeOut_dropSkip (i : Nat) (v : Byte) : (s.writeOut i v).dropSkip = s.dropSkip := rfl
@[simp] theorem writeOut_framesBuffered (i : Nat) (v : Byte) : (s.writeOut i v).framesBuffered = s.framesBuffered := rfl
@[simp] theorem writeOut_readIndex (i : Nat) (v : Byte) : (s.writeOut i v).readIndex = s.readIndex := rfl
@[simp] theorem writeOut_dropAck (i : Nat) (v : Byte) : (s.writeOut i v).dropAck = s.dropAck := rfl
@[simp] theorem writeOut_lastSequence (i : Nat) (v : Byte) : (s.writeOut i v).lastSequence = s.lastSequence := rfl
@[simp] theorem writeOut_ring (i : Nat) (v : Byte) : (s.writeOut i v).ring = s.ring := rfl
@[simp] theorem writeOut_txSequence (i : Nat) (v : Byte) : (s.writeOut i v).txSequence = s.txSequence := rfl
@[simp] theorem writeOut_tx (i : Nat) (v : Byte) : (s.writeOut i v).tx = s.tx := rfl
@[simp] theorem writeOut_txPin (i : Nat) (v : Byte) : (s.writeOut i v).txPin = s.txPin := rfl
@[simp] theorem writeOut_getCall (i : Nat) (v : Byte) : (s.writeOut i v).getCall = s.getCall := rfl
@[simp] theorem writeOut_getResult (i : Nat) (v : Byte) : (s.writeOut i v).getResult = s.getResult := rfl
@[simp] theorem writeOut_outBuffer (i : Nat) (v : Byte) : (s.writeOut i v).outBuffer = s.outBuffer.write i v := rfl
@[simp] theorem writeOut_rsp (i : Nat) (v : Byte) : (s.writeOut i v).rsp = s.rsp := rfl
@[simp] theorem writeOut_nowBus (i : Nat) (v : Byte) : (s.writeOut i v).nowBus = s.nowBus := rfl
@[simp] theorem writeOut_ringEpoch (i : Nat) (v : Byte) : (s.writeOut i v).ringEpoch = s.ringEpoch := rfl
@[simp] theorem writeOut_schedule (i : Nat) (v : Byte) : (s.writeOut i v).schedule = s.schedule := rfl
@[simp] theorem writeOut_tail (i : Nat) (v : Byte) : (s.writeOut i v).tail = s.tail := rfl
@[simp] theorem writeOut_distance (i : Nat) (v : Byte) : (s.writeOut i v).distance = s.distance := rfl
@[simp] theorem writeOut_ringByte (i : Nat) (v : Byte) (x : Byte) : (s.writeOut i v).ringByte x = s.ringByte x := rfl

/-! ### setTx -/

@[simp] theorem setTx_cfg (t : Option Transmission) : (s.setTx t).cfg = s.cfg := rfl
@[simp] theorem setTx_lastEdge (t : Option Transmission) : (s.setTx t).lastEdge = s.lastEdge := rfl
@[simp] theorem setTx_fip (t : Option Transmission) : (s.setTx t).fip = s.fip := rfl
@[simp] theorem setTx_pulseCnt (t : Option Transmission) : (s.setTx t).pulseCnt = s.pulseCnt := rfl
@[simp] theorem setTx_bitAcc (t : Option Transmission) : (s.setTx t).bitAcc = s.bitAcc := rfl
@[simp] theorem setTx_byteCnt (t : Option Transmission) : (s.setTx t).byteCnt = s.byteCnt := rfl
@[simp] theorem setTx_declaredLen (t : Option Transmission) : (s.setTx t).declaredLen = s.declaredLen := rfl
@[simp] theorem setTx_frameStart (t : Option Transmission) : (s.setTx t).frameStart = s.frameStart := rfl
@[simp] theorem setTx_writeIndex (t : Option Transmission) : (s.setTx t).writeIndex = s.writeIndex := rfl
@[simp] theorem setTx_dropSkip (t : Option Transmission) : (s.setTx t).dropSkip = s.dropSkip := rfl
@[simp] theorem setTx_framesBuffered (t : Option Transmission) : (s.setTx t).framesBuffered = s.framesBuffered := rfl
@[simp] theorem setTx_readIndex (t : Option Transmission) : (s.setTx t).readIndex = s.readIndex := rfl
@[simp] theorem setTx_dropAck (t : Option Transmission) : (s.setTx t).dropAck = s.dropAck := rfl
@[simp] theorem setTx_lastSequence (t : Option Transmission) : (s.setTx t).lastSequence = s.lastSequence := rfl
@[simp] theorem setTx_ring (t : Option Transmission) : (s.setTx t).ring = s.ring := rfl
@[simp] theorem setTx_txSequence (t : Option Transmission) : (s.setTx t).txSequence = s.txSequence := rfl
@[simp] theorem setTx_tx (t : Option Transmission) : (s.setTx t).tx = t := rfl
@[simp] theorem setTx_txPin (t : Option Transmission) : (s.setTx t).txPin = s.txPin := rfl
@[simp] theorem setTx_getCall (t : Option Transmission) : (s.setTx t).getCall = s.getCall := rfl
@[simp] theorem setTx_getResult (t : Option Transmission) : (s.setTx t).getResult = s.getResult := rfl
@[simp] theorem setTx_outBuffer (t : Option Transmission) : (s.setTx t).outBuffer = s.outBuffer := rfl
@[simp] theorem setTx_rsp (t : Option Transmission) : (s.setTx t).rsp = s.rsp := rfl
@[simp] theorem setTx_nowBus (t : Option Transmission) : (s.setTx t).nowBus = s.nowBus := rfl
@[simp] theorem setTx_ringEpoch (t : Option Transmission) : (s.setTx t).ringEpoch = s.ringEpoch := rfl
@[simp] theorem setTx_schedule (t : Option Transmission) : (s.setTx t).schedule = s.schedule := rfl
@[simp] theorem setTx_tail (t : Option Transmission) : (s.setTx t).tail = s.tail := rfl
@[simp] theorem setTx_distance (t : Option Transmission) : (s.setTx t).distance = s.distance := rfl
@[simp] theorem setTx_ringByte (t : Option Transmission) (x : Byte) : (s.setTx t).ringByte x = s.ringByte x := rfl

/-! ### setTxPin -/

@[simp] theorem setTxPin_cfg (l : Level) : (s.setTxPin l).cfg = s.cfg := rfl
@[simp] theorem setTxPin_lastEdge (l : Level) : (s.setTxPin l).lastEdge = s.lastEdge := rfl
@[simp] theorem setTxPin_fip (l : Level) : (s.setTxPin l).fip = s.fip := rfl
@[simp] theorem setTxPin_pulseCnt (l : Level) : (s.setTxPin l).pulseCnt = s.pulseCnt := rfl
@[simp] theorem setTxPin_bitAcc (l : Level) : (s.setTxPin l).bitAcc = s.bitAcc := rfl
@[simp] theorem setTxPin_byteCnt (l : Level) : (s.setTxPin l).byteCnt = s.byteCnt := rfl
@[simp] theorem setTxPin_declaredLen (l : Level) : (s.setTxPin l).declaredLen = s.declaredLen := rfl
@[simp] theorem setTxPin_frameStart (l : Level) : (s.setTxPin l).frameStart = s.frameStart := rfl
@[simp] theorem setTxPin_writeIndex (l : Level) : (s.setTxPin l).writeIndex = s.writeIndex := rfl
@[simp] theorem setTxPin_dropSkip (l : Level) : (s.setTxPin l).dropSkip = s.dropSkip := rfl
@[simp] theorem setTxPin_framesBuffered (l : Level) : (s.setTxPin l).framesBuffered = s.framesBuffered := rfl
@[simp] theorem setTxPin_readIndex (l : Level) : (s.setTxPin l).readIndex = s.readIndex := rfl
@[simp] theorem setTxPin_dropAck (l : Level) : (s.setTxPin l).dropAck = s.dropAck := rfl
@[simp] theorem setTxPin_lastSequence (l : Level) : (s.setTxPin l).lastSequence = s.lastSequence := rfl
@[simp] theorem setTxPin_ring (l : Level) : (s.setTxPin l).ring = s.ring := rfl
@[simp] theorem setTxPin_txSequence (l : Level) : (s.setTxPin l).txSequence = s.txSequence := rfl
@[simp] theorem setTxPin_tx (l : Level) : (s.setTxPin l).tx = s.tx := rfl
@[simp] theorem setTxPin_txPin (l : Level) : (s.setTxPin l).txPin = l := rfl
@[simp] theorem setTxPin_getCall (l : Level) : (s.setTxPin l).getCall = s.getCall := rfl
@[simp] theorem setTxPin_getResult (l : Level) : (s.setTxPin l).getResult = s.getResult := rfl
@[simp] theorem setTxPin_outBuffer (l : Level) : (s.setTxPin l).outBuffer = s.outBuffer := rfl
@[simp] theorem setTxPin_rsp (l : Level) : (s.setTxPin l).rsp = s.rsp := rfl
@[simp] theorem setTxPin_nowBus (l : Level) : (s.setTxPin l).nowBus = s.nowBus := rfl
@[simp] theorem setTxPin_ringEpoch (l : Level) : (s.setTxPin l).ringEpoch = s.ringEpoch := rfl
@[simp] theorem setTxPin_schedule (l : Level) : (s.setTxPin l).schedule = s.schedule := rfl
@[simp] theorem setTxPin_tail (l : Level) : (s.setTxPin l).tail = s.tail := rfl
@[simp] theorem setTxPin_distance (l : Level) : (s.setTxPin l).distance = s.distance := rfl
@[simp] theorem setTxPin_ringByte (l : Level) (x : Byte) : (s.setTxPin l).ringByte x = s.ringByte x := rfl

/-! ### setTxSequence -/

@[simp] theorem setTxSequence_cfg (v : Byte) : (s.setTxSequence v).cfg = s.cfg := rfl
@[simp] theorem setTxSequence_lastEdge (v : Byte) : (s.setTxSequence v).lastEdge = s.lastEdge := rfl
@[simp] theorem setTxSequence_fip (v : Byte) : (s.setTxSequence v).fip = s.fip := rfl
@[simp] theorem setTxSequence_pulseCnt (v : Byte) : (s.setTxSequence v).pulseCnt = s.pulseCnt := rfl
@[simp] theorem setTxSequence_bitAcc (v : Byte) : (s.setTxSequence v).bitAcc = s.bitAcc := rfl
@[simp] theorem setTxSequence_byteCnt (v : Byte) : (s.setTxSequence v).byteCnt = s.byteCnt := rfl
@[simp] theorem setTxSequence_declaredLen (v : Byte) : (s.setTxSequence v).declaredLen = s.declaredLen := rfl
@[simp] theorem setTxSequence_frameStart (v : Byte) : (s.setTxSequence v).frameStart = s.frameStart := rfl
@[simp] theorem setTxSequence_writeIndex (v : Byte) : (s.setTxSequence v).writeIndex = s.writeIndex := rfl
@[simp] theorem setTxSequence_dropSkip (v : Byte) : (s.setTxSequence v).dropSkip = s.dropSkip := rfl
@[simp] theorem setTxSequence_framesBuffered (v : Byte) : (s.setTxSequence v).framesBuffered = s.framesBuffered := rfl
@[simp] theorem setTxSequence_readIndex (v : Byte) : (s.setTxSequence v).readIndex = s.readIndex := rfl
@[simp] theorem setTxSequence_dropAck (v : Byte) : (s.setTxSequence v).dropAck = s.dropAck := rfl
@[simp] theorem setTxSequence_lastSequence (v : Byte) : (s.setTxSequence v).lastSequence = s.lastSequence := rfl
@[simp] theorem setTxSequence_ring (v : Byte) : (s.setTxSequence v).ring = s.ring := rfl
@[simp] theorem setTxSequence_txSequence (v : Byte) : (s.setTxSequence v).txSequence = v := rfl
@[simp] theorem setTxSequence_tx (v : Byte) : (s.setTxSequence v).tx = s.tx := rfl
@[simp] theorem setTxSequence_txPin (v : Byte) : (s.setTxSequence v).txPin = s.txPin := rfl
@[simp] theorem setTxSequence_getCall (v : Byte) : (s.setTxSequence v).getCall = s.getCall := rfl
@[simp] theorem setTxSequence_getResult (v : Byte) : (s.setTxSequence v).getResult = s.getResult := rfl
@[simp] theorem setTxSequence_outBuffer (v : Byte) : (s.setTxSequence v).outBuffer = s.outBuffer := rfl
@[simp] theorem setTxSequence_rsp (v : Byte) : (s.setTxSequence v).rsp = s.rsp := rfl
@[simp] theorem setTxSequence_nowBus (v : Byte) : (s.setTxSequence v).nowBus = s.nowBus := rfl
@[simp] theorem setTxSequence_ringEpoch (v : Byte) : (s.setTxSequence v).ringEpoch = s.ringEpoch := rfl
@[simp] theorem setTxSequence_schedule (v : Byte) : (s.setTxSequence v).schedule = s.schedule := rfl
@[simp] theorem setTxSequence_tail (v : Byte) : (s.setTxSequence v).tail = s.tail := rfl
@[simp] theorem setTxSequence_distance (v : Byte) : (s.setTxSequence v).distance = s.distance := rfl
@[simp] theorem setTxSequence_ringByte (v : Byte) (x : Byte) : (s.setTxSequence v).ringByte x = s.ringByte x := rfl

end Sys2Proof.Machine
end

