-- ==== Sys2Proof/Laws/Memory.lean ====
section
/-! SUPPORT. The laws of byte memories: a read after a write, and the canonical form, which every memory operation keeps
(spec/20_memory.md R70, R72; log 3). -/

namespace Sys2Proof.Machine

/-- A read after a write: the value written at that address, every other address as before. -/
theorem read?_write (m : Memory) (a : Nat) (v : Byte) (b : Nat) :
    (m.write a v).read? b = if b = a then some v else m.read? b := by
  induction m with
  | nil => simp [Memory.write, Memory.read?]
  | cons c m ih =>
    obtain ⟨x, y⟩ := c
    simp only [Memory.write]
    split
    · simp [Memory.read?]
    · split
      · subst_vars
        by_cases h : b = x <;> simp [Memory.read?, h]
      · simp only [Memory.read?, ih]
        split <;> split <;> simp_all

theorem read?_write_same (m : Memory) (a : Nat) (v : Byte) : (m.write a v).read? a = some v := by
  simp [read?_write]

theorem read?_write_other (m : Memory) {a b : Nat} (v : Byte) (h : b ≠ a) : (m.write a v).read? b = m.read? b := by
  simp [read?_write, h]

/-- Writing keeps the canonical form from any lower limit on. -/
theorem wfFrom_write {bound a : Nat} (v : Byte) (hb : a < bound) :
    ∀ (m : Memory) (lo : Nat), m.wfFrom bound lo = true → lo ≤ a → (m.write a v).wfFrom bound lo = true
  | [], lo, _, ha => by simp [Memory.write, Memory.wfFrom, ha, hb]
  | (x, y) :: m, lo, h, ha => by
    simp only [Memory.wfFrom, Bool.and_eq_true, decide_eq_true_eq] at h
    obtain ⟨⟨hl, hx⟩, hm⟩ := h
    simp only [Memory.write]
    split
    · simp [Memory.wfFrom, ha, hb, hx, hm]
      omega
    · split
      · subst_vars
        simp [Memory.wfFrom, hl, hx, hm]
      · have := wfFrom_write v hb m (x + 1) hm (by omega)
        simp [Memory.wfFrom, hl, hx, this]

/-- A write below the bound keeps the canonical form. -/
theorem wf_write {bound a : Nat} {m : Memory} (v : Byte) (h : m.wf bound = true) (hb : a < bound) :
    (m.write a v).wf bound = true :=
  wfFrom_write v hb m 0 h (Nat.zero_le a)

/-- A ring write keeps the ring's canonical form, whatever the address: it is reduced modulo `CAP` first. -/
theorem writeRing_wf {s : State} (a v : Byte) (h : s.ring.wf s.cfg.cap = true) (hc : 0 < s.cfg.cap) :
    (s.writeRing a v).ring.wf s.cfg.cap = true := by
  rw [writeRing_ring]
  exact wf_write v h (Nat.mod_lt _ hc)

/-- The reset ring is canonical. -/
theorem reset_ring_wf : State.reset.ring.wf State.reset.cfg.cap = true := rfl

/-- What a ring byte reads as after a ring write. -/
theorem ringByte_writeRing (s : State) (a v b : Byte) :
    (s.writeRing a v).ringByte b =
      if b.toNat % s.cfg.cap = a.toNat % s.cfg.cap then v else s.ringByte b := by
  simp only [State.ringByte, writeRing_ring, writeRing_cfg, writeRing_ringEpoch, read?_write]
  split <;> rfl

end Sys2Proof.Machine
end

