-- ==== Sys2Proof/Laws/Ops.lean ====
section
/-! SUPPORT. For each shared operation of the block, once, everything it can do. -/

namespace Sys2Proof.Machine

open Host

/-- `DROP` writes `drop_skip` and `frames_buffered` (43_ring_buffer R217). -/
theorem drop_eq (s : State) :
    drop s = { s with
      dropSkip := idxAdd s.cfg.cap s.dropSkip (1 + (s.ringByte s.tail).toNat), framesBuffered := s.framesBuffered - 1 } := rfl

/-- `ADVANCE` moves the cursor, and drops first exactly when the move would reach `tail` with a record buffered (R216). -/
theorem advance_cases (s : State) :
    (idxInc s.cfg.cap s.writeIndex = s.tail ∧ s.framesBuffered ≠ 0 ∧
      advance s = (drop s).setWriteIndex (idxInc s.cfg.cap s.writeIndex)) ∨
    (¬(idxInc s.cfg.cap s.writeIndex = s.tail ∧ s.framesBuffered ≠ 0) ∧
      advance s = s.setWriteIndex (idxInc s.cfg.cap s.writeIndex)) := by
  unfold advance
  split
  · exact .inl ⟨‹_ ∧ _›.1, ‹_ ∧ _›.2, rfl⟩
  · exact .inr ⟨‹_›, rfl⟩

/-- `COMMIT` does nothing in `IDLE`, only clears `fip` without a stored byte, and else makes a record (42_frame_assembler R194). -/
theorem commit_cases (s : State) :
    (s.fip = false ∧ commit s = s) ∨
    (s.fip = true ∧ s.byteCnt.toNat < 2 ∧ commit s = s.clearFip) ∨
    (s.fip = true ∧ 2 ≤ s.byteCnt.toNat ∧
      commit s = (s.clearFip.writeRing s.frameStart (s.byteCnt - 1)).setFrames (s.framesBuffered + 1)) := by
  unfold commit
  split
  · split
    · exact .inr (.inr ⟨‹_›, ‹_›, rfl⟩)
    · exact .inr (.inl ⟨‹_›, by omega, rfl⟩)
  · exact .inl ⟨Bool.eq_false_iff.mpr ‹_›, rfl⟩

/-- A data byte claims the header slot first when it is the first one (R190, R193). -/
theorem storeByte_cases (v : Byte) (s : State) :
    (s.byteCnt = 1 ∧ storeByte v s = advance ((advance s).writeRing (advance s).writeIndex v)) ∨
    (s.byteCnt ≠ 1 ∧ storeByte v s = advance (s.writeRing s.writeIndex v)) := by
  unfold storeByte
  split
  · exact .inl ⟨‹_›, rfl⟩
  · exact .inr ⟨‹_›, rfl⟩

/-- `BYTE v`: the length byte, accepted or closing the frame, or a data byte, the last or not (R190). -/
theorem byteReceived_cases (v : Byte) (s : State) :
    (s.byteCnt = 0 ∧ (v = 0 ∨ s.cfg.maxLen < v.toNat) ∧ byteReceived v s = commit (s.setDeclared v)) ∨
    (s.byteCnt = 0 ∧ v ≠ 0 ∧ v.toNat ≤ s.cfg.maxLen ∧ byteReceived v s = s.setDeclared v) ∨
    (s.byteCnt ≠ 0 ∧ s.byteCnt = s.declaredLen ∧ byteReceived v s = commit ((storeByte v s).setByteCnt (s.byteCnt + 1))) ∨
    (s.byteCnt ≠ 0 ∧ s.byteCnt ≠ s.declaredLen ∧ byteReceived v s = (storeByte v s).setByteCnt (s.byteCnt + 1)) := by
  unfold byteReceived
  split
  · unfold lengthByte
    split
    · exact .inl ⟨‹_›, ‹_›, rfl⟩
    · rename_i h
      rw [not_or] at h
      exact .inr (.inl ⟨‹_›, h.1, by omega, rfl⟩)
  · unfold dataByte
    split
    · exact .inr (.inr (.inl ⟨‹_›, ‹_›, rfl⟩))
    · exact .inr (.inr (.inr ⟨‹_›, ‹_›, rfl⟩))

/-- `PUSHBIT b`: the eighth bit completes a byte (R188). -/
theorem pushBit_cases (b : Bool) (s : State) :
    (s.pulseCnt = 7 ∧ pushBit b s =
      byteReceived (shiftIn s.cfg.bitOrder s.bitAcc b) (s.setShift (shiftIn s.cfg.bitOrder s.bitAcc b) 0)) ∨
    (s.pulseCnt ≠ 7 ∧ pushBit b s = s.setShift (shiftIn s.cfg.bitOrder s.bitAcc b) (s.pulseCnt + 1)) := by
  unfold pushBit
  split
  · exact .inl ⟨‹_›, rfl⟩
  · exact .inr ⟨‹_›, rfl⟩

/-- A bit symbol acts in a frame only (R185, R186). -/
theorem symbolBit_cases (b : Bool) (s : State) :
    (s.fip = true ∧ symbolBit b s = pushBit b s) ∨ (s.fip = false ∧ symbolBit b s = s) := by
  unfold symbolBit
  split
  · exact .inl ⟨‹_›, rfl⟩
  · exact .inr ⟨Bool.eq_false_iff.mpr ‹_›, rfl⟩

/-! ## One equation per operation of the table -/

theorem exec_edge (t : Stamp) (s : State) :
    exec (.edge t) s = .next (handle (classify s.cfg (s.period t)) (s.setLastEdge t)).silent := rfl
theorem exec_symStart (s : State) : exec .symStart s = .next (handle .start s).silent := rfl
theorem exec_symOne (s : State) : exec .symOne s = .next (handle .one s).silent := rfl
theorem exec_symZero (s : State) : exec .symZero s = .next (handle .zero s).silent := rfl
theorem exec_symNoise (s : State) : exec .symNoise s = .next (handle .noise s).silent := rfl
theorem exec_nop (a : Byte) (s : State) : exec (.nop a) s = .next (s.respond .ok 0) := rfl
theorem exec_stat (a : Byte) (s : State) : exec (.stat a) s = .next (s.respond .ok s.framesBuffered) := rfl
theorem exec_rdb (k : Byte) (s : State) :
    exec (.rdb k) s = .next (s.respond .ok (s.ringByte (idxAdd s.cfg.cap s.readIndex k.toNat))) := rfl
theorem exec_rst (a : Byte) (s : State) : exec (.rst a) s = .next (s.clearReceiver.respond .ok 0) := rfl

/-- `ACQ` answers `EMPTY`, or resynchronises and answers the length (43_ring_buffer R222). -/
theorem exec_acq_cases (a : Byte) (s : State) :
    (s.framesBuffered = 0 ∧ exec (.acq a) s = .next (s.respond .empty 0)) ∨
    (s.framesBuffered ≠ 0 ∧ exec (.acq a) s = .next ((s.setReader s.tail s.dropSkip).respond .ok (s.ringByte s.tail))) := by
  show (_ ∧ execAcq s = _) ∨ (_ ∧ execAcq s = _)
  unfold execAcq
  split
  · exact .inl ⟨‹_›, rfl⟩
  · exact .inr ⟨‹_›, rfl⟩

/-- `REL` answers `OVERRUN`, then `EMPTY`, or releases the record at `read_index` (R224). -/
theorem exec_rel_cases (a : Byte) (s : State) :
    (s.dropSkip ≠ s.dropAck ∧ exec (.rel a) s = .next (s.respond .overrun 0)) ∨
    (s.dropSkip = s.dropAck ∧ s.framesBuffered = 0 ∧ exec (.rel a) s = .next (s.respond .empty 0)) ∨
    (s.dropSkip = s.dropAck ∧ s.framesBuffered ≠ 0 ∧ exec (.rel a) s =
      .next ((s.setReleased (idxAdd s.cfg.cap s.readIndex (1 + (s.ringByte s.readIndex).toNat))
        (s.framesBuffered - 1)).respond .ok 0)) := by
  show (_ ∧ execRel s = _) ∨ (_ ∧ _ ∧ execRel s = _) ∨ (_ ∧ _ ∧ execRel s = _)
  unfold execRel
  split
  · exact .inl ⟨‹_›, rfl⟩
  · rename_i h
    rw [not_not] at h
    split
    · exact .inr (.inl ⟨h, ‹_›, rfl⟩)
    · exact .inr (.inr ⟨h, ‹_›, rfl⟩)

/-- `TMO` commits after silence, and else changes nothing (42_frame_assembler R198). -/
theorem exec_tmo_cases (a : Byte) (s : State) :
    (s.timedOut = true ∧ exec (.tmo a) s = .next ((commit s).respond .ok 1)) ∨
    (s.timedOut = false ∧ exec (.tmo a) s = .next (s.respond .ok 0)) := by
  show (_ ∧ execTmo s = _) ∨ (_ ∧ execTmo s = _)
  unfold execTmo
  split
  · exact .inl ⟨‹_›, rfl⟩
  · exact .inr ⟨Bool.eq_false_iff.mpr ‹_›, rfl⟩

end Sys2Proof.Machine
end

