-- ==== Sys2Proof/Laws/Step.lean ====
section
/-! SUPPORT. Once, everything a step can do, and what each request can do. -/

namespace Sys2Proof.Machine

open Host

/-- A step that answers a next state: the configuration is well formed, and either nothing was to come or the head of the schedule ran. -/
theorem step_cases {s t : State} (h : step s = .next t) :
    s.cfg.wf = true ∧
      ((s.schedule = [] ∧ t = s) ∨ ∃ r rest, s.schedule = r :: rest ∧ perform r (s.setSchedule rest) = .next t) := by
  unfold step at h
  split at h
  · refine ⟨‹_›, ?_⟩
    unfold runSchedule at h
    split at h
    · exact .inl ⟨‹_›, by simpa using h.symm⟩
    · exact .inr ⟨_, _, ‹_›, h⟩
  · cases h

/-- A port word that answers a next state ran its operation, was a reserved command, or reported no edge. -/
theorem runWord_cases {p : Port} {w : BitVec 65} {now : Stamp} {s t : State} (h : runWord p w now s = .next t) :
    (∃ i, decode s.cfg.tw p w = .ok i ∧ resetDuringGet i s = false ∧
      exec i (s.setNowBus (busTime s.cfg.tw p w now)) = .next t) ∨
    (∃ op, decode s.cfg.tw p w = .error (.reserved op) ∧
      t = (s.setNowBus (busTime s.cfg.tw p w now)).respond .invalid 0) ∨
    (decode s.cfg.tw p w = .error .noStrobe ∧ t = (s.setNowBus (busTime s.cfg.tw p w now)).silent) := by
  unfold runWord at h
  split at h
  · split at h
    · cases h
    · exact .inl ⟨_, ‹_›, Bool.eq_false_iff.mpr ‹_›, h⟩
  · exact .inr (.inl ⟨_, ‹_›, by simpa [execReserved] using h.symm⟩)
  · exact .inr (.inr ⟨‹_›, by simpa [execNoEvent] using h.symm⟩)
  · cases h

/-- A `GET` step that answers a next state: no call was in progress, or its command ran and its response was taken. -/
theorem getStep_cases {chk : Byte → List Byte → Byte} {s t : State} (h : getStep chk s = .next t) :
    (s.getCall = none ∧ t = s) ∨
      ∃ g u, s.getCall = some g ∧ exec (g.command s.cfg) s = .next u ∧ t = takeResponse chk g u := by
  unfold getStep at h
  split at h
  · exact .inl ⟨‹_›, by simpa using h.symm⟩
  · split at h
    · exact .inr ⟨_, _, ‹_›, ‹_›, by simpa using h.symm⟩
    · cases h
    · cases h

/-- A call of `GET` that is accepted finds no call in progress. -/
theorem callGet_cases {cap : Byte} {s t : State} (h : callGet cap s = .next t) :
    s.getCall = none ∧ t = (s.setGetResult none).continueGet (freshGet cap) := by
  unfold callGet at h
  split at h
  · exact ⟨‹_›, by simpa using h.symm⟩
  · cases h

/-- A call of `SEND` that is accepted finds no transmission in progress and a payload that fits the length byte. -/
theorem callSend_cases {chk : Byte → List Byte → Byte} {payload : List Byte} {t0 : Stamp} {s t : State}
    (h : callSend chk payload t0 s = .next t) :
    s.tx = none ∧ payload.length ≤ maxSendLen s.cfg ∧
      t = (s.setTxPin .high).setTx (some ⟨s.cfg.stamp t0, sendSegments chk s.cfg s.txSequence payload⟩) := by
  unfold callSend at h
  split at h
  · cases h
  · split at h
    · cases h
    · exact ⟨‹_›, by omega, by simpa using h.symm⟩

/-- A `SEND` step that answers a next state: nothing to send, the end, a segment without a fall, or a fall that is an `EDGE`. -/
theorem sendStep_cases {s t : State} (h : sendStep s = .next t) :
    (s.tx = none ∧ t = s) ∨
    (∃ u, s.tx = some ⟨u, []⟩ ∧ t = endSend s) ∨
    (∃ u g rest, s.tx = some ⟨u, g :: rest⟩ ∧ ¬(s.txPin = .high ∧ g.level = .low) ∧ t = driveSegment u g rest s) ∨
    (∃ u g rest, s.tx = some ⟨u, g :: rest⟩ ∧ s.txPin = .high ∧ g.level = .low ∧
      exec (.edge u) ((driveSegment u g rest s).setNowBus u) = .next t) := by
  unfold sendStep at h
  split at h
  · exact .inl ⟨‹_›, by simpa using h.symm⟩
  · exact .inr (.inl ⟨_, ‹_›, by simpa using h.symm⟩)
  · split at h
    · exact .inr (.inr (.inr ⟨_, _, _, ‹_›, ‹_ ∧ _›.1, ‹_ ∧ _›.2, h⟩))
    · exact .inr (.inr (.inl ⟨_, _, _, ‹_›, ‹_›, by simpa using h.symm⟩))

/-- A table word placed in front: the schedule then begins with that word. -/
@[simp] theorem withFetchWord_schedule (s : State) (nbits w : Nat) :
    (s.withFetchWord nbits w).schedule = .word (tablePort nbits) (BitVec.ofNat 65 w) s.nowBus :: s.schedule := rfl

end Sys2Proof.Machine
end

