-- ==== Sys2Proof/Laws/PerInstr.lean ====
section
/-! SUPPORT. Statements about every instruction as syntax, one lemma per constructor of Instr. -/

namespace Sys2Proof.Laws

/-- The word of a well-formed instruction has no bit above its port's width (spec/30_encoding.md R123). -/
def EncodingFits.Statement (i : Instr) : Prop :=
  ∀ tw, i.wf tw = true → (encode tw i).toNat < 2 ^ i.port.width tw

theorem cmdWord_toNat_lt (op : BitVec 4) (arg : Byte) : (cmdWord op arg).toNat < 2 ^ 12 := by
  have h := (op ++ arg).isLt
  simp only [cmdWord, BitVec.toNat_setWidth]
  exact Nat.lt_of_le_of_lt (Nat.mod_le _ _) h

theorem EncodingFits.edge (t : Stamp) : EncodingFits.Statement (.edge t) := by
  intro tw h
  simp only [Instr.wf, decide_eq_true_eq] at h
  cases tw <;> simp only [TimeWidth.bits, encode, Instr.port, Port.width, BitVec.toNat_ofNat] at * <;> omega

theorem EncodingFits.symStart : EncodingFits.Statement .symStart := by intro tw _; cases tw <;> decide
theorem EncodingFits.symOne : EncodingFits.Statement .symOne := by intro tw _; cases tw <;> decide
theorem EncodingFits.symZero : EncodingFits.Statement .symZero := by intro tw _; cases tw <;> decide
theorem EncodingFits.symNoise : EncodingFits.Statement .symNoise := by intro tw _; cases tw <;> decide
theorem EncodingFits.nop (a : Byte) : EncodingFits.Statement (.nop a) := fun _ _ => cmdWord_toNat_lt _ a
theorem EncodingFits.stat (a : Byte) : EncodingFits.Statement (.stat a) := fun _ _ => cmdWord_toNat_lt _ a
theorem EncodingFits.acq (a : Byte) : EncodingFits.Statement (.acq a) := fun _ _ => cmdWord_toNat_lt _ a
theorem EncodingFits.rdb (k : Byte) : EncodingFits.Statement (.rdb k) := fun _ _ => cmdWord_toNat_lt _ k
theorem EncodingFits.rel (a : Byte) : EncodingFits.Statement (.rel a) := fun _ _ => cmdWord_toNat_lt _ a
theorem EncodingFits.tmo (a : Byte) : EncodingFits.Statement (.tmo a) := fun _ _ => cmdWord_toNat_lt _ a
theorem EncodingFits.rst (a : Byte) : EncodingFits.Statement (.rst a) := fun _ _ => cmdWord_toNat_lt _ a

end Sys2Proof.Laws
end

