-- ==== Sys2Proof/Certificates/Slice0/Obligations.lean ====
section
/-! DEFINITION. The statements for the provers. Each names the rule of spec/ it formalises; OBLIGATIONS.json holds their list. -/

open Sys2Proof Sys2Proof.Machine Host

/-! ## Encoding -/

/-- Decode and encode agree: every well-formed operation, with every operand at every value its encoding admits, is read back from its word
(30_encoding R113 to R116). -/
def Obligations.DecodeReadsBackEncode : Prop :=
  ∀ (tw : TimeWidth) (i : Instr), i.wf tw = true → decode tw i.port (encode tw i) = .ok i

/-- The other direction: a word that decodes is the word of a well-formed operation of its port, so no two words mean the same operation and no
bit is dropped (30_encoding R113 to R116, R123). -/
def Obligations.EncodeReadsBackDecode : Prop :=
  ∀ (tw : TimeWidth) (p : Port) (w : BitVec 65) (i : Instr), decode tw p w = .ok i →
    i.port = p ∧ i.wf tw = true ∧ encode tw i = w

/-- A few words written out from the spec's encodings: `EDGE 7000` is `0x100001B58`, the four `SYM` codes, and command words of
95_test_vectors section 1.3. -/
def Obligations.SpecWordsDecode : Prop :=
  decode .w32 .evt 0x100001B58 = .ok (.edge 7000) ∧
  decode .w64 .evt 0x1000000000000006A = .ok (.edge 0x6A) ∧
  decode .w32 .sym 0b11 = .ok .symStart ∧ decode .w32 .sym 0b10 = .ok .symOne ∧
  decode .w32 .sym 0b01 = .ok .symZero ∧ decode .w32 .sym 0b00 = .ok .symNoise ∧
  decode .w32 .cmd 0x000 = .ok (.nop 0) ∧ decode .w32 .cmd 0x1AB = .ok (.stat 0xAB) ∧
  decode .w32 .cmd 0x200 = .ok (.acq 0) ∧ decode .w32 .cmd 0x304 = .ok (.rdb 4) ∧
  decode .w32 .cmd 0x400 = .ok (.rel 0) ∧ decode .w32 .cmd 0x500 = .ok (.tmo 0) ∧
  decode .w32 .cmd 0xF00 = .ok (.rst 0) ∧ decode .w32 .cmd 0x7FF = .error (.reserved 0x7)

/-- A step runs the request at the head of the schedule on the state that has lost it (20_memory R81). A word that decodes runs as `exec` of its
instruction, with its time on the `now` bus, for every instruction but an `RST` under a `GET`, which is refused (93_implementation_defined U24). A call of
`GET`, a command of the `GET` in progress, a call of `SEND`, a pin segment of the `SEND` in progress and a forced sequence run as the companions'
procedures do (44_frame_consumer R240, R241, 41_transmitter_encoder R160, R161, R166). -/
def Obligations.StepRunsDecodedInstruction : Prop :=
  ∀ (s : State) (r : Request) (rest : List Request), s.cfg.wf = true → s.schedule = r :: rest →
    let u : State := { s with schedule := rest }
    (∀ p w now i, r = .word p w now → decode s.cfg.tw p w = .ok i → (s.getCall = none ∨ ∀ a, i ≠ .rst a) →
      step s = exec i { u with nowBus := s.cfg.stamp (busTime s.cfg.tw p w now) }) ∧
    (∀ n, r = .get n → step s = callGet n u ∧
      (s.getCall = none → step s = .next { u with getCall := some ⟨n, .stat, 0, 0, 0, []⟩, getResult := none })) ∧
    (r = .getStep → step s = getStep Config.chk u) ∧
    (∀ payload t0, r = .send payload t0 → step s = callSend Config.chk payload t0 u) ∧
    (r = .sendStep → step s = sendStep u) ∧
    (∀ v, r = .forceSequence v → step s = .next { u with txSequence := v })

/-- R119: a reserved opcode, `0x6` to `0xE`, changes no state and answers `rc = 3`, `data = 0`. The request leaves the schedule and its time is on
the `now` bus, which are the model's own fields (log 5, 9). -/
def Obligations.ReservedOpcodeAnswersInvalid : Prop :=
  ∀ (s : State) (op : BitVec 4) (arg : Byte) (now : Stamp) (rest : List Request),
    s.cfg.wf = true → 0x6 ≤ op.toNat → op.toNat ≤ 0xE → s.schedule = .word .cmd (cmdWord op arg) now :: rest →
    step s = .next { s with schedule := rest, nowBus := s.cfg.stamp now, rsp := some (3#2 ++ 0#8) }

/-- The requests that a step turns away, each by its name: an `RST` under a `GET` (93_implementation_defined U24), a word wider than its format
(log 11), a second `GET` (log 12) and a second `SEND` (41_transmitter_encoder R172; log 14). These refusals are the model's choice. -/
def Obligations.TurnedAwayByName : Prop :=
  ∀ (s : State) (r : Request) (rest : List Request), s.cfg.wf = true → s.schedule = r :: rest →
    (∀ arg now, r = .word .cmd (cmdWord 0xF#4 arg) now → s.getCall ≠ none → step s = .refused .resetDuringGet) ∧
    (∀ p w now, r = .word p w now → 2 ^ p.width s.cfg.tw ≤ w.toNat → step s = .refused .overWideWord) ∧
    (∀ n, r = .get n → s.getCall ≠ none → step s = .refused .foregroundBusy) ∧
    (∀ payload t0, r = .send payload t0 → s.tx ≠ none → step s = .refused .transmitterBusy)

/-- A configuration is well formed when the conditions of 00_scope R18 hold, underflow being checked for all three bands (log 17), together with
R12's `START_MAX_ERROR >= TOL_POS` and R17's burst of periods outside all three bands (log 18); a step refuses any other
(93_implementation_defined U16). `TW` is 32 or 64 by its type. -/
def Obligations.IllFormedConfigRefused : Prop :=
  ∀ s : State,
    let c := s.cfg
    let conditions : Prop :=
      (c.onePeriod < c.startPeriod ∧ c.zeroPeriod < c.onePeriod ∧ 0 < c.zeroPeriod) ∧
      (∀ p ∈ [c.startPeriod, c.onePeriod, c.zeroPeriod], c.tolNeg + p * c.calErrPct / 100 ≤ p) ∧
      (∀ t ∈ [c.startLo, c.startHi, c.oneLo, c.oneHi, c.zeroLo, c.zeroHi], t < 2 ^ c.tw.bits) ∧
      (∀ b ∈ [(c.startLo, c.startHi), (c.oneLo, c.oneHi), (c.zeroLo, c.zeroHi)], b.1 ≤ b.2) ∧
      (4 ≤ c.cap ∧ c.cap ≤ 256) ∧
      (c.highDuration : Int) < c.zeroPeriod - c.tolNeg ∧
      c.tolPos ≤ c.startMaxError ∧
      ∀ p ∈ c.noiseBurst, p < 2 ^ c.tw.bits ∧ ∀ b ∈ [(c.startLo, c.startHi), (c.oneLo, c.oneHi), (c.zeroLo, c.zeroHi)],
        ¬(if c.bandClosed then b.1 ≤ p ∧ p ≤ b.2 else b.1 < p ∧ p < b.2)
    (conditions → c.wf = true) ∧ (¬conditions → step s = .refused .illFormedConfig)

/-- No operation stops: "the block raises no exception" and every operation is total, in every state (60_exceptions R270, 00_scope R21). -/
def Obligations.EveryOperationCompletes : Prop :=
  ∀ (i : Instr) (s : State), ∃ t, exec i s = .next t

/-! ## The discriminator -/

/-- R142: the six thresholds are the six formulas, over the integers, and all lie between 0 and `2^TW - 1` in a well-formed configuration. -/
def Obligations.ThresholdsFollowFormulas : Prop :=
  ∀ c : Cfg, c.wf = true →
    (c.startLo : Int) = c.startPeriod - (c.tolNeg + (c.startPeriod * c.calErrPct) / 100) ∧
    (c.startHi : Int) = c.startPeriod + (c.startMaxError + (c.startPeriod * c.calErrPct) / 100) ∧
    (c.oneLo : Int) = c.onePeriod - (c.tolNeg + (c.onePeriod * c.calErrPct) / 100) ∧
    (c.oneHi : Int) = c.onePeriod + (c.tolPos + (c.onePeriod * c.calErrPct) / 100) ∧
    (c.zeroLo : Int) = c.zeroPeriod - (c.tolNeg + (c.zeroPeriod * c.calErrPct) / 100) ∧
    (c.zeroHi : Int) = c.zeroPeriod + (c.tolPos + (c.zeroPeriod * c.calErrPct) / 100) ∧
    ∀ t ∈ [c.startLo, c.startHi, c.oneLo, c.oneHi, c.zeroLo, c.zeroHi], t < 2 ^ c.tw.bits

/-- While `CAL_ERR_PCT` is a percentage of at most 100, R18's one inequality, for `ZERO_PERIOD`, keeps all three bands from underflowing. -/
def Obligations.ZeroBandGuardsAllBands : Prop :=
  ∀ c : Cfg, c.calErrPct ≤ 100 → c.periodsOrdered = true →
    c.tolNeg + c.zeroPeriod * c.calErrPct / 100 ≤ c.zeroPeriod → c.noUnderflow = true

/-- R143: a period is START exactly when it lies in the START band, ONE when it lies in the ONE band and not in START's, ZERO when it lies in
the ZERO band alone, and NOISE otherwise; the band ends are inside or outside by `BAND_CLOSED`. -/
def Obligations.ClassifyTestsBandsInOrder : Prop :=
  ∀ (c : Cfg) (p : Nat),
    let within (lo hi : Nat) : Prop := if c.bandClosed then lo ≤ p ∧ p ≤ hi else lo < p ∧ p < hi
    (classify c p = .start ↔ within c.startLo c.startHi) ∧
    (classify c p = .one ↔ ¬within c.startLo c.startHi ∧ within c.oneLo c.oneHi) ∧
    (classify c p = .zero ↔ ¬within c.startLo c.startHi ∧ ¬within c.oneLo c.oneHi ∧ within c.zeroLo c.zeroHi) ∧
    (classify c p = .noise ↔ ¬within c.startLo c.startHi ∧ ¬within c.oneLo c.oneHi ∧ ¬within c.zeroLo c.zeroHi)

/-- Every period of the noise burst that is sent is read as NOISE (00_scope R17, 41_transmitter_encoder R169). That a well-formed configuration implies
this, and that such a period is below `2^TW`, is the model's reading: R18's list has neither (DEDUCED, log 18). The nominal periods are read as what they
were sent for, when the bands are disjoint and, with `BAND_CLOSED` false, each nominal period lies strictly inside its own band (30_encoding R102,
40_pulse_discriminator R143, R148). -/
def Obligations.NominalPeriodsReadBack : Prop :=
  ∀ c : Cfg, c.wf = true →
    (∀ p ∈ burstPeriods c, p < 2 ^ c.tw.bits ∧ classify c p = .noise) ∧
    (c.zeroHi < c.oneLo → c.oneHi < c.startLo →
      (c.bandClosed = true ∨
        ((c.startLo < c.startPeriod ∧ c.startPeriod < c.startHi) ∧ (c.oneLo < c.onePeriod ∧ c.onePeriod < c.oneHi) ∧
          (c.zeroLo < c.zeroPeriod ∧ c.zeroPeriod < c.zeroHi))) →
      classify c c.startPeriod = .start ∧ ∀ b, classify c (encodeBit c b) = bitSymbol b)

/-! ## The edge and the symbols -/

/-- R181: `EDGE now` forms the period modulo `2^TW`, writes `last_edge` whatever the symbol, and does what the assembler does with the symbol of
that period. -/
def Obligations.EdgeClassifiesAndHandles : Prop :=
  ∀ (t : Stamp) (s : State), ∃ u,
    exec (.edge t) s = .next u ∧ u.lastEdge.toNat = t.toNat % 2 ^ s.cfg.tw.bits ∧
    exec (symbolInstr (classify s.cfg ((t - s.lastEdge).toNat % 2 ^ s.cfg.tw.bits)))
      { s with lastEdge := BitVec.ofNat 64 (t.toNat % 2 ^ s.cfg.tw.bits) } = .next u

/-- R184: the code `0b11` is a START symbol, which commits the frame in progress, if any, and opens a new one at `write_index`; everything else is as before. -/
def Obligations.StartOpensFrame : Prop :=
  (∀ tw, decode tw .sym 0b11 = .ok .symStart) ∧
  ∀ s : State, ∃ t, exec .symStart s = .next t ∧
    t.fip = true ∧ t.pulseCnt = 0 ∧ t.bitAcc = 0 ∧ t.byteCnt = 0 ∧ t.declaredLen = 0 ∧ t.frameStart = s.writeIndex ∧
    s.committedInto t ∧ t.lastEdge = s.lastEdge ∧ s.sameProducerCursors t ∧ s.sameBesideProducer t ∧ t.rsp = none

/-- R187: the code `0b00` is a NOISE symbol, which commits the frame in progress and returns to `IDLE`; the partial byte is left behind, everything else is as before. -/
def Obligations.NoiseClosesFrame : Prop :=
  (∀ tw, decode tw .sym 0b00 = .ok .symNoise) ∧
  ∀ s : State, ∃ t, exec .symNoise s = .next t ∧
    t.fip = false ∧ s.committedInto t ∧ { s with fip := false }.sameAssembler t ∧ s.sameProducerCursors t ∧
    s.sameBesideProducer t ∧ t.rsp = none

/-- R185, R186: in `IDLE` a ONE or ZERO symbol does nothing. -/
def Obligations.BitsOutsideFrameIgnored : Prop :=
  ∀ (b : Bool) (s : State), s.fip = false → exec (symbolInstr (bitSymbol b)) s = .next { s with rsp := none }

/-- R188: a bit that does not complete a byte enters the accumulator, at bit 0 with `MSB_FIRST` and at bit 7 with `LSB_FIRST`, and is counted;
nothing else changes. -/
def Obligations.BitEntersAccumulator : Prop :=
  ∀ (b : Bool) (s : State), s.fip = true → s.pulseCnt ≠ 7 →
    ∃ v n, exec (symbolInstr (bitSymbol b)) s = .next { s with bitAcc := v, pulseCnt := n, rsp := none } ∧
      n.toNat = s.pulseCnt.toNat + 1 ∧
      v.toNat = (match s.cfg.bitOrder with
        | .msbFirst => (2 * s.bitAcc.toNat + b.toNat) % 256
        | .lsbFirst => s.bitAcc.toNat / 2 + 128 * b.toNat)

/-- R190, length byte: the eighth bit of a frame's first byte `v` makes it the declared length; it is not stored, and 0 or more than `MAX_LEN` closes
the frame with nothing committed. -/
def Obligations.LengthByteDeclares : Prop :=
  ∀ (b : Bool) (s : State), s.fip = true → s.pulseCnt = 7 → s.byteCnt = 0 →
    exec (symbolInstr (bitSymbol b)) s = .next { s with
      bitAcc := shiftIn s.cfg.bitOrder s.bitAcc b, pulseCnt := 0,
      declaredLen := shiftIn s.cfg.bitOrder s.bitAcc b, byteCnt := 1, rsp := none,
      fip := decide (1 ≤ (shiftIn s.cfg.bitOrder s.bitAcc b).toNat ∧
        (shiftIn s.cfg.bitOrder s.bitAcc b).toNat + 2 ≤ s.cfg.cap) }

/-- R190, R193, R216, data byte: the eighth bit of a later byte stores it at its slot, behind the header slot for the first one, moves the cursor
past it, and when the declared length is reached writes the record's length byte, counts the record and clears `fip`; the oldest record is dropped
exactly when the claim would reach `tail`. Every other ring byte and every other register is as before. -/
def Obligations.DataByteStored : Prop :=
  ∀ (b : Bool) (s : State), RingInv s → s.fip = true → s.pulseCnt = 7 → s.byteCnt ≠ 0 →
    ∃ t, exec (symbolInstr (bitSymbol b)) s = .next t ∧
      t.bitAcc = shiftIn s.cfg.bitOrder s.bitAcc b ∧ t.pulseCnt = 0 ∧ t.byteCnt = s.byteCnt + 1 ∧
      t.declaredLen = s.declaredLen ∧ t.frameStart = s.frameStart ∧ t.lastEdge = s.lastEdge ∧
      t.fip = decide (s.byteCnt ≠ s.declaredLen) ∧
      t.writeIndex = idxInc s.cfg.cap s.dataSlot ∧
      t.ringByte s.dataSlot = shiftIn s.cfg.bitOrder s.bitAcc b ∧
      (s.byteCnt = s.declaredLen → t.ringByte s.frameStart = s.declaredLen) ∧
      (∀ a : Byte, a.toNat % s.cfg.cap ≠ s.dataSlot.toNat →
        (s.byteCnt = s.declaredLen → a.toNat % s.cfg.cap ≠ s.frameStart.toNat) → t.ringByte a = s.ringByte a) ∧
      t.dropSkip = (if s.dataDrops then idxAdd s.cfg.cap s.dropSkip (1 + (s.ringByte s.tail).toNat) else s.dropSkip) ∧
      t.framesBuffered =
        s.framesBuffered - (if s.dataDrops then 1 else 0) + (if s.byteCnt = s.declaredLen then 1 else 0) ∧
      s.sameBesideProducer t ∧ t.rsp = none

/-- R125: eight data bits in order of arrival make the byte with the first bit in bit 7 (`MSB_FIRST`) or in bit 0 (`LSB_FIRST`), whatever the
accumulator held before. -/
def Obligations.EightBitsMakeByte : Prop :=
  ∀ (b0 b1 b2 b3 b4 b5 b6 b7 : Bool) (acc : Byte),
    let one := BitVec.ofBool
    [b0, b1, b2, b3, b4, b5, b6, b7].foldl (shiftIn .msbFirst) acc
      = (one b0 ++ one b1 ++ one b2 ++ one b3 ++ one b4 ++ one b5 ++ one b6 ++ one b7 : BitVec 8) ∧
    [b0, b1, b2, b3, b4, b5, b6, b7].foldl (shiftIn .lsbFirst) acc
      = (one b7 ++ one b6 ++ one b5 ++ one b4 ++ one b3 ++ one b2 ++ one b1 ++ one b0 : BitVec 8)

/-- Transmitter and receiver agree on the bit order: the bits of a byte as they travel, shifted in, give the byte back (20_memory R74,
30_encoding R104). -/
def Obligations.ByteBitsShiftBack : Prop :=
  ∀ (o : BitOrder) (v acc : Byte), (byteBits o v).foldl (shiftIn o) acc = v

/-- R194: `COMMIT` acts only if it observes `fip = 1`; it clears it, and with at least one stored data byte writes the record's length byte at
`frame_start` and counts the record; nothing else changes, in particular no cursor. -/
def Obligations.CommitIsTestAndClear : Prop :=
  ∀ s : State, (commit s).fip = false ∧ s.committedInto (commit s) ∧
    { s with fip := false }.sameAssembler (commit s) ∧ s.sameProducerCursors (commit s) ∧
    s.sameBesideProducer (commit s) ∧ (commit s).rsp = s.rsp

/-- R197: two `COMMIT`s with no START symbol between them: the second does nothing, whatever other symbols arrived. -/
def Obligations.SecondCommitDoesNothing : Prop :=
  ∀ (s : State) (ys : List Symbol), (∀ y ∈ ys, y ≠ .start) →
    commit (handleAll ys (commit s)) = handleAll ys (commit s)

/-- R198: `TMO` forces a commit exactly when it is enabled, a frame is in progress and the silence is strictly longer than `START_PERIOD`; it
answers 1 then, and else answers 0 and changes nothing. -/
def Obligations.TimeoutPollCommits : Prop :=
  ∀ (a : Byte) (s : State),
    (∀ tw, decode tw .cmd ((0x5#4 ++ a).setWidth 65) = .ok (.tmo a)) ∧
    (s.cfg.tmoEn = true ∧ s.fip = true ∧ s.cfg.startPeriod < (s.nowBus - s.lastEdge).toNat % 2 ^ s.cfg.tw.bits →
      ∃ t, exec (.tmo a) s = .next t ∧ t.fip = false ∧ s.committedInto t ∧ { s with fip := false }.sameAssembler t ∧
        s.sameProducerCursors t ∧ s.sameBesideProducer t ∧ t.rsp = some (0#2 ++ 1#8)) ∧
    (¬(s.cfg.tmoEn = true ∧ s.fip = true ∧ s.cfg.startPeriod < (s.nowBus - s.lastEdge).toNat % 2 ^ s.cfg.tw.bits) →
      exec (.tmo a) s = .next { s with rsp := some (0#2 ++ 0#8) })

/-- A whole frame received into an empty ring: START, the length byte and that many data bytes leave `IDLE`, one record at `tail`, and its bytes in
order behind its length byte (42_frame_assembler R184 to R196, 30_encoding R110). -/
def Obligations.FrameReceivedWhole : Prop :=
  ∀ (s : State) (bytes : List Byte), RingInv s → s.fip = false → s.framesBuffered = 0 →
    1 ≤ bytes.length → bytes.length ≤ s.cfg.maxLen →
    let t := handleAll (.start :: (BitVec.ofNat 8 bytes.length :: bytes).flatMap (byteSymbols s.cfg.bitOrder)) s
    t.fip = false ∧ t.framesBuffered = 1 ∧ t.tail = s.tail ∧ (t.ringByte t.tail).toNat = bytes.length ∧
      t.recordBytes t.tail 1 bytes.length = bytes ∧ t.dropSkip = s.dropSkip ∧
      t.writeIndex = idxAdd s.cfg.cap s.writeIndex (1 + bytes.length)

/-! ## The ring -/

/-- R210, R211, R212: the index arithmetic is arithmetic modulo `CAP`, for every `CAP` from 4 to 256, and every result is an index. -/
def Obligations.IndexArithmeticModuloCap : Prop :=
  ∀ (cap : Nat) (i j : Byte) (n : Nat), 4 ≤ cap → cap ≤ 256 → i.toNat < cap → j.toNat < cap →
    (idxInc cap i).toNat = (i.toNat + 1) % cap ∧ (idxInc cap i).toNat < cap ∧
    (idxAdd cap i n).toNat = (i.toNat + n) % cap ∧ (idxAdd cap i n).toNat < cap ∧
    ((idxSub cap i j).toNat : Int) = ((i.toNat : Int) - j.toNat) % cap ∧ (idxSub cap i j).toNat < cap

/-- R217: `DROP` adds the oldest record's `1 + L` bytes to `drop_skip` modulo `CAP` and takes one from `frames_buffered`; so `tail` moves past that
record; nothing else changes, `read_index` in particular. -/
def Obligations.DropMovesTailPastRecord : Prop :=
  ∀ s : State, RingInv s → s.framesBuffered ≠ 0 →
    drop s = { s with
      dropSkip := BitVec.ofNat 8 ((s.dropSkip.toNat + (1 + (s.ringByte s.tail).toNat)) % s.cfg.cap),
      framesBuffered := s.framesBuffered - 1 } ∧
    (drop s).tail = idxAdd s.cfg.cap s.tail (1 + (s.ringByte s.tail).toNat) ∧
    1 ≤ (s.ringByte s.tail).toNat ∧ (s.ringByte s.tail).toNat ≤ s.cfg.maxLen

/-- R216: `ADVANCE` moves `write_index` forward by one, dropping the oldest record first exactly when the move would reach `tail` with a record
buffered; `tail` is evaluated before the drop. -/
def Obligations.AdvanceDropsOnlyWhenFull : Prop :=
  ∀ s : State,
    (idxInc s.cfg.cap s.writeIndex = s.tail ∧ s.framesBuffered ≠ 0 →
      advance s = { drop s with writeIndex := idxInc s.cfg.cap s.writeIndex }) ∧
    (¬(idxInc s.cfg.cap s.writeIndex = s.tail ∧ s.framesBuffered ≠ 0) →
      advance s = { s with writeIndex := idxInc s.cfg.cap s.writeIndex })

/-- One `EDGE` performs at most one `DROP` (43_ring_buffer R216, 60_exceptions R281). -/
def Obligations.OneDropPerEdge : Prop :=
  ∀ (t : Stamp) (s u : State), RingInv s → exec (.edge t) s = .next u →
    u.dropSkip = s.dropSkip ∨
      (s.framesBuffered ≠ 0 ∧ u.dropSkip = idxAdd s.cfg.cap s.dropSkip (1 + (s.ringByte s.tail).toNat))

/-- R226: `NOP` answers `rc = 0`, `data = 0` and changes nothing. -/
def Obligations.NopOnlyAnswers : Prop :=
  ∀ (a : Byte) (s : State),
    (∀ tw, decode tw .cmd ((0x0#4 ++ a).setWidth 65) = .ok (.nop a)) ∧
    exec (.nop a) s = .next { s with rsp := some (0#2 ++ 0#8) }

/-- R221: `STAT` answers `frames_buffered` and changes nothing. -/
def Obligations.StatAnswersCount : Prop :=
  ∀ (a : Byte) (s : State),
    (∀ tw, decode tw .cmd ((0x1#4 ++ a).setWidth 65) = .ok (.stat a)) ∧
    exec (.stat a) s = .next { s with rsp := some (0#2 ++ s.framesBuffered) }

/-- R222: `ACQ` answers `EMPTY` and changes nothing when no record is buffered; else it moves `read_index` to `tail` and `drop_ack` to `drop_skip`, and
answers the byte there, the length of the oldest record, between 1 and `MAX_LEN`; then `tail = read_index`. -/
def Obligations.AcqResynchronises : Prop :=
  ∀ (a : Byte) (s : State),
    (∀ tw, decode tw .cmd ((0x2#4 ++ a).setWidth 65) = .ok (.acq a)) ∧
    (s.framesBuffered = 0 → exec (.acq a) s = .next { s with rsp := some (1#2 ++ 0#8) }) ∧
    (s.framesBuffered ≠ 0 → exec (.acq a) s = .next { s with
      readIndex := s.tail, dropAck := s.dropSkip, rsp := some (0#2 ++ s.ringByte s.tail) }) ∧
    (RingInv s → s.framesBuffered ≠ 0 →
      1 ≤ (s.ringByte s.tail).toNat ∧ (s.ringByte s.tail).toNat ≤ s.cfg.maxLen ∧
        { s with readIndex := s.tail, dropAck := s.dropSkip }.tail = s.tail)

/-- R222, R231: after a successful `ACQ`, `tail = read_index` and the length answered is between 1 and `MAX_LEN`; `ACQ` never answers `OK 0`. -/
def Obligations.AcqAnswersRecordLength : Prop :=
  ∀ (a : Byte) (s t : State), RingInv s → s.framesBuffered ≠ 0 → exec (.acq a) s = .next t →
    t.tail = t.readIndex ∧ ∃ len : Byte, t.rsp = some (0#2 ++ len) ∧ 1 ≤ len.toNat ∧ len.toNat ≤ s.cfg.maxLen

/-- R223: `RDB k` answers the ring byte `k` places after `read_index`, modulo `CAP`, unchecked, and changes nothing. -/
def Obligations.RdbAnswersByteAtOffset : Prop :=
  ∀ (k : Byte) (s : State),
    (∀ tw, decode tw .cmd ((0x3#4 ++ k).setWidth 65) = .ok (.rdb k)) ∧
    exec (.rdb k) s = .next { s with
      rsp := some (0#2 ++ s.ringByte (BitVec.ofNat 8 ((s.readIndex.toNat + k.toNat) % s.cfg.cap))) }

/-- R224: `REL` answers `OVERRUN` when a record was dropped since the last `ACQ`, else `EMPTY` when no record is buffered, both without a state
change; else it moves `read_index` past the record there and takes one from `frames_buffered`. -/
def Obligations.RelReleasesRecord : Prop :=
  ∀ (a : Byte) (s : State),
    (∀ tw, decode tw .cmd ((0x4#4 ++ a).setWidth 65) = .ok (.rel a)) ∧
    (s.dropSkip ≠ s.dropAck → exec (.rel a) s = .next { s with rsp := some (2#2 ++ 0#8) }) ∧
    (s.dropSkip = s.dropAck → s.framesBuffered = 0 → exec (.rel a) s = .next { s with rsp := some (1#2 ++ 0#8) }) ∧
    (s.dropSkip = s.dropAck → s.framesBuffered ≠ 0 → exec (.rel a) s = .next { s with
      readIndex := BitVec.ofNat 8 ((s.readIndex.toNat + (1 + (s.ringByte s.readIndex).toNat)) % s.cfg.cap),
      framesBuffered := s.framesBuffered - 1, rsp := some (0#2 ++ 0#8) })

/-- `ACQ` twice in a row leaves the state and the answer of the first (20_memory R76). -/
def Obligations.SecondAcqRepeats : Prop :=
  ∀ (a b : Byte) (s t : State), RingInv s → exec (.acq a) s = .next t → exec (.acq b) t = .next t

/-- R233: with a record buffered `write_index` is not `tail`; with none and no frame in progress it is; so `distance = 0` always means empty. -/
def Obligations.DistanceZeroMeansEmpty : Prop :=
  ∀ s : State, RingInv s →
    (s.framesBuffered ≠ 0 → s.writeIndex ≠ s.tail) ∧
    (s.framesBuffered = 0 → s.fip = false → s.writeIndex = s.tail ∧ s.distance = 0) ∧
    (s.distance = 0 → s.framesBuffered = 0)

/-- R232: at least one ring byte is free and at most `floor((CAP - 1) / 2)` records are buffered. -/
def Obligations.RecordsAndDistanceBounded : Prop :=
  ∀ s : State, RingInv s → s.framesBuffered.toNat ≤ (s.cfg.cap - 1) / 2 ∧ s.distance.toNat ≤ s.cfg.cap - 1

/-- R230, R234: every step keeps the chain invariant, from every state that has it, whatever the schedule. -/
def Obligations.StepKeepsChainOfRecords : Prop :=
  ∀ s t : State, RingInv s → step s = .next t → RingInv t

/-- The chain invariant holds at reset, whatever well-formed configuration the block is constructed with (70_reset R301). -/
def Obligations.ResetHasChainOfRecords : Prop :=
  ∀ c : Cfg, c.wf = true → RingInv { State.reset with cfg := c }

/-- R302: every byte of a committed record was written after reset, and every step keeps it so. -/
def Obligations.StepKeepsRecordsWritten : Prop :=
  ∀ s t : State, RingInv s → s.recordsWritten → step s = .next t → t.recordsWritten

/-- Every step keeps the ring in canonical form, in every state with a well-formed configuration (log 3). -/
def Obligations.StepKeepsRingCanonical : Prop :=
  ∀ s t : State, s.ring.wf s.cfg.cap = true → step s = .next t → t.ring.wf t.cfg.cap = true

/-! ## Who may write what -/

/-- `Cfg` is written by no operation (20_memory R90). -/
def Obligations.ConfigurationImmutable : Prop :=
  ∀ s t : State, step s = .next t → t.cfg = s.cfg

/-- The foreground's reading commands write no assembler register, neither producer cursor and no ring byte (43_ring_buffer R227,
60_exceptions R284). -/
def Obligations.ReadersLeaveProducerAlone : Prop :=
  ∀ (i : Instr) (s t : State), (∃ a, i = .nop a ∨ i = .stat a ∨ i = .acq a ∨ i = .rdb a ∨ i = .rel a) → exec i s = .next t →
    s.sameAssembler t ∧ s.sameProducerCursors t ∧ s.sameRing t ∧ t.ringEpoch = s.ringEpoch ∧ t.lastSequence = s.lastSequence ∧
      s.sameOutside t

/-- The edge, its symbols and the timeout poll write no consumer-owned register, nothing of the companions and no configuration (20_memory R80,
60_exceptions R284). -/
def Obligations.ProducerLeavesConsumerAlone : Prop :=
  ∀ (i : Instr) (s t : State), (i.port = .evt ∨ i.port = .sym ∨ ∃ a, i = .tmo a) → exec i s = .next t → s.sameBesideProducer t

/-- The response of an earlier command changes nothing of what a later operation does (60_exceptions R273). -/
def Obligations.ResponseHasNoEffect : Prop :=
  ∀ (i : Instr) (s : State) (r : Option (BitVec 10)), exec i { s with rsp := r } = exec i s

/-- `last_edge` and the `now` bus stay `TW` bits wide (10_state R31). -/
def Obligations.StepKeepsTimestampsInWidth : Prop :=
  ∀ s t : State, s.stampsFit → step s = .next t → t.stampsFit

/-! ## Reset -/

/-- R300: `RST` puts every register of the block at its reset value, leaves `Cfg` and `tx_sequence` alone, answers 0, and leaves every ring byte
unspecified: what was written before is forgotten, and the free values are those of a new epoch (log 3). -/
def Obligations.RstClearsReceiver : Prop :=
  ∀ (a : Byte) (s : State),
    (∀ tw, decode tw .cmd ((0xF#4 ++ a).setWidth 65) = .ok (.rst a)) ∧
    exec (.rst a) s = .next { s with
      lastEdge := 0, fip := false, pulseCnt := 0, bitAcc := 0, byteCnt := 0, declaredLen := 0, frameStart := 0, writeIndex := 0,
      dropSkip := 0, framesBuffered := 0, readIndex := 0, dropAck := 0, lastSequence := none,
      ring := [], ringEpoch := s.ringEpoch + 1, rsp := some (0#2 ++ 0#8) }

/-- R56: the registers at reset. `Cfg` there is the model's choice (log 1) and is not stated. -/
def Obligations.ResetRegisterValues : Prop :=
  let s := State.reset
  s.lastEdge = 0 ∧ s.fip = false ∧ s.pulseCnt = 0 ∧ s.bitAcc = 0 ∧ s.byteCnt = 0 ∧ s.declaredLen = 0 ∧ s.frameStart = 0 ∧
    s.writeIndex = 0 ∧ s.dropSkip = 0 ∧ s.framesBuffered = 0 ∧ s.readIndex = 0 ∧ s.dropAck = 0 ∧ s.lastSequence = none ∧
    s.txSequence = 0 ∧ ∀ a : Byte, s.ringByte a = Config.unwrittenByte s.ringEpoch (a.toNat % s.cfg.cap)

/-! ## The consumer -/

/-- R242: with no record buffered a `GET` returns `(NO_DATA, 0, 0)` and nothing else changes. -/
def Obligations.GetOfEmptyRing : Prop :=
  ∀ (chk : Byte → List Byte → Byte) (s : State) (g : GetCall), s.getCall = some g → g.point = .stat → s.framesBuffered = 0 →
    getStep chk s = .next { s with
      getCall := none, getResult := some ⟨.noData, 0, 0⟩, rsp := some (0#2 ++ 0#8) }

/-- R245, R246, R249: at each of its three releases, after a record that is too short, that does not fit, or that was copied, a `GET` whose `REL` answers
`OVERRUN` or `EMPTY` consumes nothing, discards its locals and starts over; the release of a record that is too short or does not fit returns `NOISE` or
`BUFFER_OVERFLOW`, the record consumed. R243: an `ACQ` that answers `EMPTY` returns `NO_DATA`. -/
def Obligations.OverrunRestartsGet : Prop :=
  ∀ (chk : Byte → List Byte → Byte) (s : State) (g : GetCall), s.getCall = some g →
    (g.point = .relShort ∨ g.point = .relOverflow ∨ g.point = .relCopied →
      (s.dropSkip ≠ s.dropAck → getStep chk s = .next { s with
        getCall := some ⟨g.outCapacity, .stat, 0, 0, 0, []⟩, rsp := some (2#2 ++ 0#8) }) ∧
      (s.dropSkip = s.dropAck → s.framesBuffered = 0 → getStep chk s = .next { s with
        getCall := some ⟨g.outCapacity, .stat, 0, 0, 0, []⟩, rsp := some (1#2 ++ 0#8) })) ∧
    (g.point = .relShort ∨ g.point = .relOverflow → s.dropSkip = s.dropAck → s.framesBuffered ≠ 0 →
      getStep chk s = .next { s with
        readIndex := idxAdd s.cfg.cap s.readIndex (1 + (s.ringByte s.readIndex).toNat), framesBuffered := s.framesBuffered - 1,
        getCall := none, getResult := some ⟨if g.point = .relShort then .noise else .bufferOverflow, 0, 0⟩,
        rsp := some (0#2 ++ 0#8) }) ∧
    (g.point = .acq → s.framesBuffered = 0 → getStep chk s = .next { s with
      getCall := none, getResult := some ⟨.noData, 0, 0⟩, rsp := some (1#2 ++ 0#8) })

/-- R250, R251: after the release, a check value that does not match gives `CORRUPTED`, and a matching check value 0 over an all-zero payload gives
`NOISE`; both with 0 bytes, 0 lost, the record consumed and `last_sequence` unchanged. -/
def Obligations.CheckRejectsRecord : Prop :=
  ∀ (chk : Byte → List Byte → Byte) (s : State) (g : GetCall), s.getCall = some g → g.point = .relCopied → s.cfg.ecEn = true →
    s.dropSkip = s.dropAck → s.framesBuffered ≠ 0 →
    let value := chk (if s.cfg.sqEn then g.sequence else 0) g.copied
    let after (st : Status) : State := { s with
      readIndex := idxAdd s.cfg.cap s.readIndex (1 + (s.ringByte s.readIndex).toNat), framesBuffered := s.framesBuffered - 1,
      getCall := none, getResult := some ⟨st, 0, 0⟩, rsp := some (0#2 ++ 0#8) }
    (value ≠ g.check → getStep chk s = .next (after .corrupted)) ∧
    (value = g.check → value = 0 → (∀ b ∈ g.copied, b = 0) → getStep chk s = .next (after .noise))

/-- R252 to R254: a record that passed the checks is returned with nothing lost when sequencing is off; else it seeds the tracker, is skipped as a
duplicate by starting over, or is returned with the number of messages lost, `(sequence - last_sequence - 1) mod 256`. The record is consumed; the assembler, the
producer's cursors, the ring and the caller's buffer are as before. -/
def Obligations.TrackerCountsLosses : Prop :=
  ∀ (chk : Byte → List Byte → Byte) (s : State) (g : GetCall), s.getCall = some g → g.point = .relCopied →
    s.dropSkip = s.dropAck → s.framesBuffered ≠ 0 →
    (s.cfg.ecEn = true →
      chk (if s.cfg.sqEn then g.sequence else 0) g.copied = g.check ∧ ¬(g.check = 0 ∧ ∀ b ∈ g.copied, b = 0)) →
    ∃ t, getStep chk s = .next t ∧ t.framesBuffered = s.framesBuffered - 1 ∧
      t.readIndex = idxAdd s.cfg.cap s.readIndex (1 + (s.ringByte s.readIndex).toNat) ∧ t.dropAck = s.dropAck ∧
      s.sameAssembler t ∧ s.sameProducerCursors t ∧ s.sameRing t ∧ t.outBuffer = s.outBuffer ∧ t.cfg = s.cfg ∧
      (s.cfg.sqEn = false → t.lastSequence = s.lastSequence ∧ t.getCall = none ∧
        t.getResult = some ⟨.success, BitVec.ofNat 8 (payloadLen s.cfg g.len), 0⟩) ∧
      (s.cfg.sqEn = true → s.lastSequence = none → t.lastSequence = some g.sequence ∧ t.getCall = none ∧
        t.getResult = some ⟨.success, BitVec.ofNat 8 (payloadLen s.cfg g.len), 0⟩) ∧
      (∀ last, s.cfg.sqEn = true → s.lastSequence = some last → s.cfg.ecEn = true ∧ g.sequence = last →
        t.lastSequence = s.lastSequence ∧ t.getCall = some ⟨g.outCapacity, .stat, 0, 0, 0, []⟩ ∧ t.getResult = s.getResult) ∧
      (∀ last, s.cfg.sqEn = true → s.lastSequence = some last → ¬(s.cfg.ecEn = true ∧ g.sequence = last) →
        t.lastSequence = some g.sequence ∧ t.getCall = none ∧ ∃ lost : Byte,
          t.getResult = some ⟨.success, BitVec.ofNat 8 (payloadLen s.cfg g.len), lost⟩ ∧
          (lost.toNat : Int) = ((g.sequence.toNat : Int) - last.toNat - 1) % 256)

/-- R258: with no edge in between, `GET1` is the closed form: run from its first point it reaches, after some commands, the registers and the result
of `getClosed`, or starts over with the next record when that result is a duplicate. Every byte of the
caller's buffer at and beyond `plen` is as before, and so is the whole buffer when there is no record, when it is too short, or when it does not fit; on
`SUCCESS` the bytes below `plen` are the record's payload (R245, R246, R248, R255). That they are the payload also when the result is `CORRUPTED`, `NOISE` or
a duplicate is the model's choice (DESIGN CHOICE, log 13): R248 and 93_implementation_defined U3 let no caller rely on them then. -/
def Obligations.GetMatchesClosedForm : Prop :=
  ∀ (chk : Byte → List Byte → Byte) (cap : Byte) (s : State), RingInv s → s.getCall = some (freshGet cap) →
    ∃ k t, getSteps chk k s = .next t ∧
      (let c := getClosed chk cap s
       t.readIndex = c.1.readIndex ∧ t.dropAck = c.1.dropAck ∧ t.framesBuffered = c.1.framesBuffered ∧
       t.lastSequence = c.1.lastSequence ∧ t.ring = s.ring ∧ s.sameAssembler t ∧ s.sameProducerCursors t ∧ t.cfg = s.cfg ∧
       (∀ i, t.outBuffer.read? i =
         if i < s.copyLen cap then (s.recordRead s.tail cap).copied[i]? else s.outBuffer.read? i) ∧
       c.2.bytesWritten.toNat ≤ s.copyLen cap ∧ s.copyLen cap ≤ cap.toNat ∧
       (c.2.status ≠ .duplicateMessage → t.getCall = none ∧ t.getResult = some c.2) ∧
       (c.2.status = .duplicateMessage → t.getCall = some (freshGet cap) ∧ t.getResult = s.getResult))

/-- R257: `DUPLICATE_MESSAGE` is never returned by `GET`: every step keeps it so. -/
def Obligations.StepKeepsDuplicatesInternal : Prop :=
  ∀ s t : State, s.noDuplicateReturned → step s = .next t → t.noDuplicateReturned

/-- With sequencing off the tracker stays unset for ever: every step keeps it so (44_frame_consumer R252). -/
def Obligations.StepKeepsTrackerUnset : Prop :=
  ∀ s t : State, s.trackerIdle → step s = .next t → t.trackerIdle

/-! ## The transmitter -/

/-- R170: the pin of a transmission falls exactly at `t0, t0 + p1, t0 + p1 + p2, ...` modulo `2^TW`, where the `p`s are the periods of the preamble, of
START, of the bits of the frame's bytes and of the burst (the burst's closing edge: log 15). -/
def Obligations.SendFallsAtSumsOfPeriods : Prop :=
  ∀ (chk : Byte → List Byte → Byte) (c : Cfg) (q : Byte) (payload : List Byte) (t0 : Stamp), t0.toNat < 2 ^ c.tw.bits →
    fallingEdges c .high t0 (sendSegments chk c q payload) = edgeTimes c t0
      (List.replicate (8 * c.numPreambleBytes) c.zeroPeriod
        ++ c.startPeriod :: (frameBytes chk c q payload).flatMap
            (fun v => (byteBits c.bitOrder v).map fun b => if b then c.onePeriod else c.zeroPeriod)
        ++ if c.txEotNoise then c.noiseBurst else [])

/-- The transmitter acts on the receiver only through its falling edges: driving the segments of a transmission is one `EDGE` per fall, at its time,
and nothing else but the transmitter's own fields (20_memory R92, 41_transmitter_encoder R170). -/
def Obligations.SendIsItsEdges : Prop :=
  ∀ (s : State) (u : Stamp) (segs : List Segment), s.tx = some ⟨u, segs⟩ →
    ∃ t, sendSteps segs.length s = .next t ∧
      { t with tx := none, txPin := .high, nowBus := 0 } =
        { edgesAt (fallingEdges s.cfg s.txPin u segs) s with tx := none, txPin := .high, nowBus := 0 }

/-- R166: `tx_sequence` is incremented modulo 256 when the transmission is over, and not before, when sequencing is on; else it is unchanged. -/
def Obligations.SequenceCountsAfterSend : Prop :=
  ∀ (chk : Byte → List Byte → Byte) (payload : List Byte) (t0 : Stamp) (s s1 : State), callSend chk payload t0 s = .next s1 →
    ∃ k t, sendSteps k s1 = .next t ∧ t.tx = none ∧
      t.txSequence = (if s.cfg.sqEn then s.txSequence + 1 else s.txSequence) ∧
      ∀ j < k, ∃ m, sendSteps j s1 = .next m ∧ m.tx ≠ none ∧ m.txSequence = s.txSequence

/-- R171: a payload longer than `255 - EC_EN - SQ_EN` bytes cannot be expressed in the length byte and is refused; any other is sent from `t0` on, the line
HIGH before. R105 to R109, R165: its bytes are the length `EC_EN + SQ_EN + n`, the check value over the payload seeded by the sequence (0 without one)
when checking is on, the sequence when sequencing is on, and the payload in order. -/
def Obligations.OversizedSendRefused : Prop :=
  ∀ (chk : Byte → List Byte → Byte) (payload : List Byte) (t0 : Stamp) (s : State), s.tx = none →
    let ec := s.cfg.ecEn.toNat
    let sq := s.cfg.sqEn.toNat
    let bytes := frameBytes chk s.cfg s.txSequence payload
    (255 < payload.length + ec + sq → callSend chk payload t0 s = .refused .oversizedPayload) ∧
    (payload.length + ec + sq ≤ 255 →
      callSend chk payload t0 s =
        .next { s with txPin := .high, tx := some ⟨s.cfg.stamp t0, sendSegments chk s.cfg s.txSequence payload⟩ } ∧
      bytes.length = 1 + ec + sq + payload.length ∧
      (∃ len : Byte, bytes[0]? = some len ∧ len.toNat = ec + sq + payload.length) ∧
      (s.cfg.ecEn = true → bytes[1]? = some (chk (if s.cfg.sqEn then s.txSequence else 0) payload)) ∧
      (s.cfg.sqEn = true → bytes[1 + ec]? = some s.txSequence) ∧
      ∀ i < payload.length, bytes[1 + ec + sq + i]? = payload[i]?)
end

