-- ==== Sys2Proof/Tests/Slice0.lean ====
section
/-! SUPPORT. Our own tests: the decoding of words written out from the spec's encodings, an ill-formed term for each well-formedness check,
small one-step tests whose expected values come from spec/95_test_vectors.md, and one witness for every statement that has hypotheses. -/

namespace Sys2Proof.Tests

open Sys2Proof Sys2Proof.Machine Host

/-! ## Helpers -/

/-- The next state, when there is one. -/
def next? (o : Outcome State Fault Refusal) : Option State :=
  match o with
  | .next s => some s
  | .fault _ => none
  | .refused _ => none

/-- The response after an operation. -/
def rspOf (o : Outcome State Fault Refusal) : Option (BitVec 10) := (next? o).bind (·.rsp)

/-- The reset state of a block constructed with `c`. -/
def made (c : Cfg) : State := { State.reset with cfg := c }

/-- `SUM8`, the spec's stand-in for `CHK` (95_test_vectors 1.2). -/
def sum8 (seed : Byte) (payload : List Byte) : Byte := payload.foldl (· + ·) seed

/-- T1 with `LSB_FIRST`. -/
def lsb : Cfg := { Cfg.t1 with bitOrder := .lsbFirst }

/-- The record `[04 8A 07 41 42]` at address 0 (vector E6). -/
def oneRecord : State :=
  { State.reset with ring := [(0, 0x04), (1, 0x8A), (2, 0x07), (3, 0x41), (4, 0x42)], writeIndex := 5, framesBuffered := 1 }

/-- Three records and a frame whose first data byte is about to complete: vector E4, with seven bits of `0x41` shifted in. -/
def fullRing : State :=
  { State.reset with
    ring := [(0, 0x04), (1, 0x11), (2, 0x12), (3, 0x13), (4, 0x14), (5, 0x04), (6, 0x21), (7, 0x22), (8, 0x23), (9, 0x24)]
      ++ [(10, 0x04), (11, 0x31), (12, 0x32), (13, 0x33), (14, 0x34)],
    writeIndex := 15, frameStart := 15, fip := true, byteCnt := 1, declaredLen := 2, framesBuffered := 3,
    pulseCnt := 7, bitAcc := 0x20 }

/-- The same frame before its last data byte `0x42` completes (program P2, step 4). -/
def lastByte : State :=
  { fullRing with
    ring := [(0, 0x41), (1, 0x11), (2, 0x12), (3, 0x13), (4, 0x14), (5, 0x04), (6, 0x21), (7, 0x22), (8, 0x23), (9, 0x24)]
      ++ [(10, 0x04), (11, 0x31), (12, 0x32), (13, 0x33), (14, 0x34)],
    writeIndex := 1, byteCnt := 2, framesBuffered := 2, dropSkip := 5, bitAcc := 0x21 }

/-- A frame in progress with three stored bytes, the state of program PB after its edges. -/
def cutShort : State :=
  { State.reset with
    ring := [(1, 0x8A), (2, 0x07), (3, 0x41)], writeIndex := 4, fip := true, byteCnt := 4, declaredLen := 4, bitAcc := 0x41,
    lastEdge := 111000 }

/-- `cutShort` with a time on the `now` bus. -/
def cutShortAt (t : Stamp) : State := { cutShort with nowBus := t }

/-- The locals of a `GET 8` that has copied `[04 8A 07 41 42]` and is about to release it. -/
def copied : GetCall := ⟨8, .relCopied, 4, 0x8A, 7, [0x41, 0x42]⟩

/-- `oneRecord` under a `GET` at a point. -/
def reading (g : GetCall) : State := { oneRecord with getCall := some g }

/-! ## Decoding: words written out from 30_encoding.md R113 to R116 -/

theorem test_decode_edge32 : decodeTableWord 40 0b100000000000000000001101101011000 = some (.edge 7000) := by decide
theorem test_decode_edge64 : decodeTableWord 72 (0b1 <<< 64 + 0b101) = some (.edge 5) := by decide
theorem test_decode_symStart : decodeTableWord 8 0b11 = some .symStart := by decide
theorem test_decode_symOne : decodeTableWord 8 0b10 = some .symOne := by decide
theorem test_decode_symZero : decodeTableWord 8 0b01 = some .symZero := by decide
theorem test_decode_symNoise : decodeTableWord 8 0b00 = some .symNoise := by decide
theorem test_decode_nop : decodeTableWord 16 0b0000_11111111 = some (.nop 0xFF) := by decide
theorem test_decode_stat : decodeTableWord 16 0b0001_10101011 = some (.stat 0xAB) := by decide
theorem test_decode_acq : decodeTableWord 16 0b0010_00000000 = some (.acq 0) := by decide
theorem test_decode_rdb : decodeTableWord 16 0b0011_00000101 = some (.rdb 5) := by decide
theorem test_decode_rel : decodeTableWord 16 0b0100_00000000 = some (.rel 0) := by decide
theorem test_decode_tmo : decodeTableWord 16 0b0101_00000000 = some (.tmo 0) := by decide
theorem test_decode_rst : decodeTableWord 16 0b1111_00000000 = some (.rst 0) := by decide
theorem test_decode_reserved : decode .w32 .cmd 0b0110_00000000 = .error (.reserved 6) := by decide
theorem test_decode_noStrobe : decode .w32 .evt 0x000001B58 = .error .noStrobe := by decide
theorem test_decode_overWide : decode .w32 .sym 0b100 = .error .overWide := by decide
theorem test_encode_edge : encode .w32 (.edge 7000) = 0x100001B58 := by decide

/-! ## Well-formedness: each check refuses an ill-formed term (00_scope R18) -/

theorem test_wf_t1 : Cfg.t1.wf = true := by decide
theorem test_periodsOrdered_refuses : { Cfg.t1 with onePeriod := 6000 }.periodsOrdered = false := by decide
theorem test_noUnderflow_refuses : { Cfg.t1 with tolNeg := 3001 }.noUnderflow = false := by decide
theorem test_thresholdsFit_refuses : { Cfg.t1 with startMaxError := 2 ^ 32 - 6000 }.thresholdsFit = false := by decide
theorem test_capInRange_refuses_low : { Cfg.t1 with cap := 3 }.capInRange = false := by decide
theorem test_capInRange_refuses_high : { Cfg.t1 with cap := 257 }.capInRange = false := by decide
theorem test_highFits_refuses : { Cfg.t1 with highDuration := 2800 }.highFits = false := by decide

theorem test_startWidened_refuses : { Cfg.t1 with startMaxError := 199 }.startWidened = false := by decide
theorem test_burstIsNoise_refuses_start : { Cfg.t1 with noiseBurst := [9000, 6000] }.burstIsNoise = false := by decide
theorem test_burstIsNoise_refuses_wide : { Cfg.t1 with noiseBurst := [2 ^ 32] }.burstIsNoise = false := by decide
theorem test_wf_burst : { Cfg.t1 with txEotNoise := true, noiseBurst := [100, 2799, 6401] }.wf = true := by decide

/-- No configuration of natural numbers fails this check: R142 puts each lower threshold at or below its reference period. -/
theorem test_bandsOrdered_always (c : Cfg) : c.bandsOrdered = true := by
  refine decide_eq_true ?_
  simp only [Cfg.startLo, Cfg.startHi, Cfg.oneLo, Cfg.oneHi, Cfg.zeroLo, Cfg.zeroHi]
  omega

theorem test_edge_wf_refuses : (Instr.edge (2 ^ 32)).wf .w32 = false := by decide
theorem test_step_refuses_ill_formed : step (made { Cfg.t1 with cap := 3 }) = .refused .illFormedConfig := by rfl

/-! ## The discriminator (vectors V1 to V4) -/

theorem test_classify_closed :
    [2799, 2800, 3200, 3201, 3799, 3800, 4200, 4201, 5799, 5800, 6400, 6401].map (classify Cfg.t1) =
      [.noise, .zero, .zero, .noise, .noise, .one, .one, .noise, .noise, .start, .start, .noise] := by decide

theorem test_classify_open :
    [2800, 2801, 3199, 3200, 3800, 3801, 5800, 6399, 6400].map (classify { Cfg.t1 with bandClosed := false }) =
      [.noise, .zero, .zero, .noise, .noise, .one, .noise, .start, .noise] := by decide

theorem test_classify_overlap :
    [3900, 3700, 5100, 5101, 7100, 7101].map (classify { Cfg.t1 with tolPos := 1100, startMaxError := 1100 }) =
      [.one, .zero, .one, .noise, .start, .noise] := by decide

theorem test_thresholds_scaled : let c := { Cfg.t1 with calErrPct := 5 }
    [c.startLo, c.startHi, c.oneLo, c.oneHi, c.zeroLo, c.zeroHi] = [5500, 6700, 3600, 4400, 2650, 3350] := by decide

/-! ## One step of each operation -/

/-- V4: the period is taken modulo `2^32`. -/
theorem test_edge_wraps : (next? (exec (.edge 1904) { State.reset with lastEdge := 4294963200 })).map
    (fun s => (s.fip, s.lastEdge)) = some (true, 1904) := by decide

/-- F9: a NOISE period in `IDLE` moves only `last_edge`. -/
theorem test_edge_noise : exec (.edge 1000) State.reset = .next { State.reset with lastEdge := 1000 } := by rfl

/-- F4: START in the middle of a frame commits `[01 AA]` and opens a frame at 2. -/
theorem test_symStart : (next? (exec .symStart
      { State.reset with
        fip := true, byteCnt := 2, declaredLen := 3, pulseCnt := 3, writeIndex := 2, ring := [(1, 0xAA)] })).map
    (fun s => (s.ring.read? 0, s.framesBuffered, s.frameStart, s.byteCnt, s.pulseCnt, s.fip)) =
      some (some 1, 1, 2, 0, 0, true) := by decide

/-- E4: the first data byte passes the header slot, drops the oldest record, is stored at 0. -/
theorem test_symOne_drops : (next? (exec .symOne fullRing)).map
    (fun s => (s.dropSkip, s.framesBuffered, s.writeIndex, s.ring.read? 0, s.distance)) =
      some (5, 2, 1, some 0x41, 12) := by decide

/-- F1: the sixth bit with `LSB_FIRST` enters bit 7. -/
theorem test_symOne_lsb : (next? (exec .symOne { made lsb with fip := true, pulseCnt := 5 })).map
    (fun s => (s.pulseCnt, s.bitAcc)) = some (6, 0x80) := by decide

/-- F1: the eighth bit makes the length byte `0x04`. -/
theorem test_symZero_length : (next? (exec .symZero { State.reset with fip := true, pulseCnt := 7, bitAcc := 2 })).map
    (fun s => (s.pulseCnt, s.bitAcc, s.byteCnt, s.declaredLen, s.writeIndex, s.fip)) =
      some (0, 4, 1, 4, 0, true) := by decide

/-- P2, step 4: the last data byte `0x42` commits the record at 15. -/
theorem test_symZero_commits : (next? (exec .symZero lastByte)).map
    (fun s => (s.fip, s.framesBuffered, s.writeIndex, s.ring.read? 15, s.ring.read? 1)) =
      some (false, 3, 2, some 2, some 0x42) := by decide

/-- F3: NOISE commits what is stored; the partial byte stays behind in the registers. -/
theorem test_symNoise : (next? (exec .symNoise
      { State.reset with
        fip := true, byteCnt := 3, declaredLen := 3, pulseCnt := 5, bitAcc := 0x76, writeIndex := 3,
        ring := [(1, 0xAA), (2, 0xBB)] })).map
    (fun s => (s.fip, s.ring.read? 0, s.framesBuffered, s.pulseCnt, s.bitAcc, s.writeIndex)) =
      some (false, some 2, 1, 5, 0x76, 3) := by decide

theorem test_nop : rspOf (exec (.nop 0xFF) oneRecord) = some 0x000 := by decide
theorem test_stat : rspOf (exec (.stat 0xAB) fullRing) = some 0x003 := by decide

/-- E5 and P2: `ACQ` of an empty ring, and of the ring whose oldest record was dropped. -/
theorem test_acq_empty : rspOf (exec (.acq 0) State.reset) = some 0x100 := by decide
theorem test_acq_resynchronises : (next? (exec (.acq 0) lastByte)).map (fun s => (s.rsp, s.readIndex, s.dropAck)) =
    some (some 0x004, 5, 5) := by decide

/-- E6: `RDB 4`, and `RDB 16` wrapping to address 0. -/
theorem test_rdb : rspOf (exec (.rdb 4) oneRecord) = some 0x042 := by decide
theorem test_rdb_wraps : rspOf (exec (.rdb 16) oneRecord) = some 0x004 := by decide

/-- E6 and E7: `REL` of a record, and after an overrun. -/
theorem test_rel : (next? (exec (.rel 0) oneRecord)).map (fun s => (s.rsp, s.readIndex, s.framesBuffered)) =
    some (some 0x000, 5, 0) := by decide
theorem test_rel_overrun : (next? (exec (.rel 0) lastByte)).map (fun s => (s.rsp, s.readIndex, s.framesBuffered)) =
    some (some 0x200, 0, 2) := by decide

/-- F11: silence of exactly `START_PERIOD`, and one microsecond more. -/
theorem test_tmo_early : rspOf (exec (.tmo 0) (cutShortAt 117000)) = some 0x000 := by decide
theorem test_tmo_commits : (next? (exec (.tmo 0) (cutShortAt 117001))).map
    (fun s => (s.rsp, s.fip, s.ring.read? 0, s.framesBuffered)) = some (some 0x001, false, some 3, 1) := by decide

/-- H1: `RST` clears the registers and forgets the ring; `tx_sequence` stays. -/
theorem test_rst : (next? (exec (.rst 0) { fullRing with txSequence := 9, lastSequence := some 3 })).map
    (fun s => (s.writeIndex, s.framesBuffered, s.fip, s.lastSequence, s.ring.read? 1, s.txSequence)) =
      some (0, 0, false, none, none, 9) := by decide

/-! ## The step -/

/-- PB: the first edge of the program, fetched and run from reset. -/
theorem test_step_edge : (next? (step (State.reset.withFetchWord 40 0x100001770))).map
    (fun s => (s.fip, s.lastEdge, s.schedule)) = some (true, 6000, []) := by decide

/-- H2: a reserved command answers `INVALID`. -/
theorem test_step_reserved : rspOf (step (State.reset.withFetchWord 16 0x7FF)) = some 0x300 := by decide

/-- 93_implementation_defined U24: an `RST` under a `GET` is refused. -/
theorem test_step_reset_during_get :
    step ({ State.reset with getCall := some (freshGet 8) }.withFetchWord 16 0xF00) = .refused .resetDuringGet := by rfl

/-! ## Index arithmetic (vectors E1 to E3) -/

theorem test_idxInc : [idxInc 16 15, idxInc 5 3, idxInc 5 4, idxInc 256 254, idxInc 256 255] = [0, 4, 0, 255, 0] := by decide
theorem test_idxAdd : [idxAdd 16 15 3, idxAdd 16 5 255, idxAdd 256 200 100, idxAdd 5 4 255, idxAdd 256 255 255] =
    [2, 4, 44, 4, 254] := by decide
theorem test_idxSub : [idxSub 16 2 5, idxSub 16 0 15, idxSub 5 0 4, idxSub 256 0 255, idxSub 256 255 0] =
    [13, 1, 1, 1, 255] := by decide

/-! ## The consumer (vectors G2, G5 to G7, G11, with `SUM8`) -/

theorem test_verdict_success : getVerdict sum8 Cfg.t1 none copied = (⟨.success, 2, 0⟩, some 7) := by decide
theorem test_verdict_all_zero :
    getVerdict sum8 Cfg.t1 none ⟨8, .relCopied, 4, 0, 0, [0, 0]⟩ = (⟨.noise, 0, 0⟩, none) := by decide
theorem test_verdict_zero_payload :
    getVerdict sum8 Cfg.t1 none ⟨8, .relCopied, 4, 5, 5, [0, 0]⟩ = (⟨.success, 2, 0⟩, some 5) := by decide
theorem test_verdict_corrupted :
    getVerdict sum8 Cfg.t1 none ⟨8, .relCopied, 3, 0x12, 9, [8]⟩ = (⟨.corrupted, 0, 0⟩, none) := by decide
theorem test_verdict_duplicate :
    getVerdict sum8 Cfg.t1 (some 7) copied = (⟨.duplicateMessage, 0, 0⟩, some 7) := by decide
theorem test_messagesLost :
    [messagesLost 8 7, messagesLost 10 7, messagesLost 0 255, messagesLost 5 5, messagesLost 3 5, messagesLost 255 0] =
      [0, 2, 0, 255, 253, 254] := by decide

/-- G2: the `RDB 4` of the trace stores the second payload byte, and the release comes next. -/
theorem test_get_copies : (next? (getStep sum8 (reading ⟨8, .rdbPayload, 4, 0x8A, 7, [0x41]⟩))).map
    (fun s => (s.rsp, s.outBuffer, s.getCall)) = some (some 0x042, [(1, 0x42)], some copied) := by decide

/-- G3: the payload does not fit, and the record is consumed. -/
theorem test_get_overflow : (next? (getStep sum8 (reading ⟨1, .acq, 0, 0, 0, []⟩))).bind (·.getCall) =
    some ⟨1, .relOverflow, 4, 0, 0, []⟩ := by decide

/-! ## The transmitter (vectors D1 to D4) -/

theorem test_frameBytes : frameBytes sum8 Cfg.t1 7 [0x41, 0x42] = [0x04, 0x8A, 0x07, 0x41, 0x42] := by decide
theorem test_frameBytes_unsequenced :
    frameBytes sum8 { Cfg.t1 with sqEn := false } 7 [0x41, 0x42] = [0x03, 0x83, 0x41, 0x42] := by decide
theorem test_sendPeriods :
    (sendPeriods sum8 Cfg.t1 7 [0x41, 0x42]).length = 57 ∧ (sendPeriods sum8 Cfg.t1 7 [0x41, 0x42]).sum = 185000 :=
  ⟨by rfl, by rfl⟩
theorem test_bytePeriods_lsb : bytePeriods lsb 0x8A = [3000, 4000, 3000, 4000, 3000, 3000, 3000, 4000] := by decide
theorem test_pulseSegments : pulseSegments Cfg.t1 4000 = [⟨.low, 2000⟩, ⟨.high, 2000⟩] := by decide
theorem test_send_oversized (payload : List Byte) (h : payload.length = 254) :
    callSend sum8 payload 0 State.reset = .refused .oversizedPayload :=
  if_pos (by rw [h]; decide)

/-! ## Witnesses: for every statement with hypotheses, concrete terms that meet all of them together -/

theorem inv_reset : RingInv State.reset :=
  ⟨by decide, by decide, by decide, ⟨0, by decide⟩, by decide, by decide⟩

theorem inv_oneRecord : RingInv oneRecord :=
  ⟨by decide, by decide, by decide, ⟨5, by decide⟩, by decide, by decide⟩

/-- The next data byte drops a record, and does not end the frame. -/
theorem inv_fullRing : RingInv fullRing :=
  ⟨by decide, by decide, by decide, ⟨15, by decide⟩, by decide, by decide⟩

/-- The next data byte drops nothing, and ends the frame. -/
theorem inv_lastByte : RingInv lastByte :=
  ⟨by decide, by decide, by decide, ⟨10, by decide⟩, by decide, by decide⟩

theorem inv_cutShort : RingInv cutShort :=
  ⟨by decide, by decide, by decide, ⟨0, by decide⟩, by decide, by decide⟩

/-- A word in front of a state. -/
def fetching (s : State) (p : Port) (w : BitVec 65) : State := { s with schedule := [.word p w 0] }

theorem witness_DecodeReadsBackEncode : (Instr.edge (2 ^ 32 - 1)).wf .w32 = true ∧ (Instr.edge (2 ^ 64 - 1)).wf .w64 = true ∧
    (Instr.rdb 255).wf .w32 = true := by decide

theorem witness_EncodeReadsBackDecode : decode .w32 .cmd 0xFFF = .ok (.rst 0xFF) ∧
    decode .w64 .evt 0x1FFFFFFFFFFFFFFFF = .ok (.edge 0xFFFFFFFFFFFFFFFF) := by decide

theorem witness_StepRunsDecodedInstruction :
    let s := fetching oneRecord .cmd 0x304
    s.cfg.wf = true ∧ s.schedule = .word .cmd 0x304 0 :: [] ∧ decode s.cfg.tw .cmd 0x304 = .ok (.rdb 4) ∧ s.getCall = none := by decide

/-- The other requests, and a call of `GET` with none in progress. -/
theorem witness_StepRunsDecodedInstruction_requests :
    ∀ r ∈ [Request.get 8, .getStep, .send [0x41] 10000, .sendStep, .forceSequence 7],
      { oneRecord with schedule := [r] }.cfg.wf = true ∧ { oneRecord with schedule := [r] }.schedule = r :: [] ∧
        { oneRecord with schedule := [r] }.getCall = none := by decide

/-- The other alternative: under a `GET` any command but `RST`. -/
theorem witness_StepRunsDecodedInstruction_underGet :
    let s := fetching (reading copied) .cmd 0x400
    s.cfg.wf = true ∧ s.schedule = .word .cmd 0x400 0 :: [] ∧ decode s.cfg.tw .cmd 0x400 = .ok (.rel 0) ∧
      ∀ a, Instr.rel 0 ≠ .rst a := by
  refine ⟨by decide, rfl, by decide, ?_⟩
  intro a h
  cases h

theorem witness_ReservedOpcodeAnswersInvalid :
    let s := fetching oneRecord .cmd (cmdWord 0x6 0)
    let u := fetching oneRecord .cmd (cmdWord 0xE 0xFF)
    s.cfg.wf = true ∧ 0x6 ≤ (0x6#4).toNat ∧ (0xE#4).toNat ≤ 0xE ∧ s.schedule = .word .cmd (cmdWord 0x6 0) 0 :: [] ∧
      u.schedule = .word .cmd (cmdWord 0xE 0xFF) 0 :: [] := by decide

/-- One witness for each clause: what is requested, and the call that is in progress. -/
theorem witness_TurnedAwayByName :
    (fetching (reading copied) .cmd (cmdWord 0xF#4 0)).getCall ≠ none ∧
      2 ^ Port.sym.width (fetching oneRecord .sym 4).cfg.tw ≤ (4#65).toNat ∧
      { reading copied with schedule := [.get 8] }.getCall ≠ none ∧
      { oneRecord with tx := some ⟨0, []⟩, schedule := [.send [1] 0] }.tx ≠ none ∧
      (fetching oneRecord .sym 4).cfg.wf = true := by decide

/-- Both sides: T1 with a burst meets the conditions, and one more byte of capacity than 256 does not. -/
theorem witness_IllFormedConfigRefused :
    (made { Cfg.t1 with cap := 256, noiseBurst := [6401] }).cfg.wf = true ∧ ¬(257 : Nat) ≤ 256 ∧
      step (made { Cfg.t1 with cap := 257 }) = .refused .illFormedConfig :=
  ⟨by decide, by decide, by rfl⟩

theorem witness_ThresholdsFollowFormulas : Cfg.t1.wf = true := by decide

theorem witness_ZeroBandGuardsAllBands :
    let c := { Cfg.t1 with calErrPct := 100, tolNeg := 0 }
    c.calErrPct ≤ 100 ∧ c.periodsOrdered = true ∧ c.tolNeg + c.zeroPeriod * c.calErrPct / 100 ≤ c.zeroPeriod := by decide

theorem witness_NominalPeriodsReadBack :
    Cfg.t1.wf = true ∧ Cfg.t1.zeroHi < Cfg.t1.oneLo ∧ Cfg.t1.oneHi < Cfg.t1.startLo ∧ Cfg.t1.bandClosed = true := by decide

/-- The other alternative: open bands with each nominal period strictly inside, the tolerances coming from calibration alone. -/
theorem witness_NominalPeriodsReadBack_open :
    let c := { Cfg.t1 with bandClosed := false, tolNeg := 0, tolPos := 0, startMaxError := 0, calErrPct := 5 }
    c.wf = true ∧ c.zeroHi < c.oneLo ∧ c.oneHi < c.startLo ∧ (c.startLo < c.startPeriod ∧ c.startPeriod < c.startHi) ∧
      (c.oneLo < c.onePeriod ∧ c.onePeriod < c.oneHi) ∧ (c.zeroLo < c.zeroPeriod ∧ c.zeroPeriod < c.zeroHi) := by decide

/-- A burst at the edges of the bands. -/
theorem witness_NominalPeriodsReadBack_burst :
    let c := { Cfg.t1 with txEotNoise := true, noiseBurst := [2799, 3201, 6401] }
    c.wf = true ∧ 6401 ∈ burstPeriods c := by decide

theorem witness_BitsOutsideFrameIgnored : State.reset.fip = false := by decide

theorem witness_BitEntersAccumulator : { fullRing with pulseCnt := 6 }.fip = true ∧ (6 : BitVec 3) ≠ 7 ∧ (0 : BitVec 3) ≠ 7 := by decide

theorem witness_LengthByteDeclares :
    let s := { State.reset with fip := true, pulseCnt := 7, bitAcc := 7 }
    s.fip = true ∧ s.pulseCnt = 7 ∧ s.byteCnt = 0 ∧ shiftIn .msbFirst s.bitAcc false = 14 ∧
      shiftIn .msbFirst s.bitAcc true = 15 := by decide

theorem witness_DataByteStored_drops :
    RingInv fullRing ∧ fullRing.fip = true ∧ fullRing.pulseCnt = 7 ∧ fullRing.byteCnt ≠ 0 ∧ fullRing.dataDrops ∧
      fullRing.byteCnt ≠ fullRing.declaredLen :=
  ⟨inv_fullRing, by decide, by decide, by decide, by decide, by decide⟩

theorem witness_DataByteStored_ends :
    RingInv lastByte ∧ lastByte.fip = true ∧ lastByte.pulseCnt = 7 ∧ lastByte.byteCnt ≠ 0 ∧ ¬lastByte.dataDrops ∧
      lastByte.byteCnt = lastByte.declaredLen :=
  ⟨inv_lastByte, by decide, by decide, by decide, by decide, by decide⟩

theorem witness_SecondCommitDoesNothing : ∀ y ∈ [Symbol.one, .zero, .noise], y ≠ .start := by decide

theorem witness_TimeoutPollCommits :
    let s := cutShortAt 117001
    let u := cutShortAt 117000
    (s.cfg.tmoEn = true ∧ s.fip = true ∧ s.cfg.startPeriod < (s.nowBus - s.lastEdge).toNat % 2 ^ s.cfg.tw.bits) ∧
    ¬(u.cfg.tmoEn = true ∧ u.fip = true ∧ u.cfg.startPeriod < (u.nowBus - u.lastEdge).toNat % 2 ^ u.cfg.tw.bits) := by decide

theorem witness_FrameReceivedWhole : RingInv State.reset ∧ State.reset.fip = false ∧ State.reset.framesBuffered = 0 ∧
    1 ≤ (List.replicate 14 (0xFF : Byte)).length ∧ (List.replicate 14 (0xFF : Byte)).length ≤ State.reset.cfg.maxLen :=
  ⟨inv_reset, by decide, by decide, by decide, by decide⟩

theorem witness_IndexArithmeticModuloCap :
    4 ≤ 256 ∧ 256 ≤ 256 ∧ (255 : Byte).toNat < 256 ∧ (0 : Byte).toNat < 256 ∧ (3 : Byte).toNat < 4 := by decide

theorem witness_DropMovesTailPastRecord : RingInv fullRing ∧ fullRing.framesBuffered ≠ 0 := ⟨inv_fullRing, by decide⟩

theorem witness_AdvanceDropsOnlyWhenFull :
    (idxInc fullRing.cfg.cap fullRing.writeIndex = fullRing.tail ∧ fullRing.framesBuffered ≠ 0) ∧
    ¬(idxInc lastByte.cfg.cap lastByte.writeIndex = lastByte.tail ∧ lastByte.framesBuffered ≠ 0) := by decide

theorem witness_OneDropPerEdge : RingInv fullRing ∧ ∃ u, exec (.edge 4000) fullRing = .next u ∧ u.dropSkip = 5 :=
  ⟨inv_fullRing, _, rfl, by decide⟩

theorem witness_AcqResynchronises : State.reset.framesBuffered = 0 ∧ RingInv lastByte ∧ lastByte.framesBuffered ≠ 0 :=
  ⟨by decide, inv_lastByte, by decide⟩

theorem witness_AcqAnswersRecordLength :
    RingInv lastByte ∧ lastByte.framesBuffered ≠ 0 ∧ ∃ t, exec (.acq 0) lastByte = .next t :=
  ⟨inv_lastByte, by decide, _, rfl⟩

theorem witness_RelReleasesRecord :
    lastByte.dropSkip ≠ lastByte.dropAck ∧ (State.reset.dropSkip = State.reset.dropAck ∧ State.reset.framesBuffered = 0) ∧
      oneRecord.dropSkip = oneRecord.dropAck ∧ oneRecord.framesBuffered ≠ 0 := by decide

theorem witness_SecondAcqRepeats : RingInv lastByte ∧ ∃ t, exec (.acq 0) lastByte = .next t := ⟨inv_lastByte, _, rfl⟩

theorem witness_DistanceZeroMeansEmpty :
    (RingInv fullRing ∧ fullRing.framesBuffered ≠ 0) ∧
      (RingInv State.reset ∧ State.reset.framesBuffered = 0 ∧ State.reset.fip = false ∧ State.reset.distance = 0) :=
  ⟨⟨inv_fullRing, by decide⟩, inv_reset, by decide, by decide, by decide⟩

theorem witness_RecordsAndDistanceBounded : RingInv fullRing ∧ fullRing.distance = 15 := ⟨inv_fullRing, by decide⟩

theorem inv_fetching {s : State} (h : RingInv s) (p : Port) (w : BitVec 65) : RingInv (fetching s p w) :=
  ⟨h.cfgWf, h.ringWf, h.indices, h.chain, h.cursor, h.counts⟩

theorem witness_StepKeepsChainOfRecords :
    RingInv (fetching fullRing .sym 0b10) ∧ ∃ t, step (fetching fullRing .sym 0b10) = .next t ∧ t.dropSkip = 5 :=
  ⟨inv_fetching inv_fullRing _ _, _, rfl, by decide⟩

theorem witness_ResetHasChainOfRecords : { Cfg.t1 with cap := 4 }.wf = true ∧ { Cfg.t1 with cap := 256 }.wf = true := by decide

theorem witness_StepKeepsRecordsWritten :
    RingInv (fetching lastByte .sym 0b01) ∧ (fetching lastByte .sym 0b01).recordsWritten ∧
      ∃ t, step (fetching lastByte .sym 0b01) = .next t :=
  ⟨inv_fetching inv_lastByte _ _, by decide, _, rfl⟩

theorem witness_StepKeepsRingCanonical :
    (fetching lastByte .sym 0b01).ring.wf (fetching lastByte .sym 0b01).cfg.cap = true ∧
      ∃ t, step (fetching lastByte .sym 0b01) = .next t :=
  ⟨by decide, _, rfl⟩

theorem witness_ConfigurationImmutable : ∃ t, step (fetching oneRecord .cmd 0xF00) = .next t := ⟨_, rfl⟩

theorem witness_ReadersLeaveProducerAlone :
    (∃ a, Instr.rel 0 = .nop a ∨ Instr.rel 0 = .stat a ∨ Instr.rel 0 = .acq a ∨ Instr.rel 0 = .rdb a ∨ Instr.rel 0 = .rel a) ∧
      ∃ t, exec (.rel 0) oneRecord = .next t ∧ t.readIndex = 5 :=
  ⟨⟨0, by simp⟩, _, rfl, by decide⟩

theorem witness_ProducerLeavesConsumerAlone :
    (Instr.edge 4000).port = .evt ∧ Instr.symOne.port = .sym ∧ ∃ t, exec (.edge 4000) fullRing = .next t :=
  ⟨rfl, rfl, _, rfl⟩

theorem witness_StepKeepsTimestampsInWidth :
    (fetching { oneRecord with lastEdge := 4294967295 } .evt 0x100000005).stampsFit ∧
      ∃ t, step (fetching { oneRecord with lastEdge := 4294967295 } .evt 0x100000005) = .next t :=
  ⟨by decide, _, rfl⟩

theorem witness_GetOfEmptyRing :
    { State.reset with getCall := some (freshGet 8) }.getCall = some (freshGet 8) ∧ (freshGet 8).point = .stat ∧
      { State.reset with getCall := some (freshGet 8) }.framesBuffered = 0 := by decide

/-- Each release point, after an overrun and on an empty ring. -/
theorem witness_OverrunRestartsGet :
    ∀ p ∈ [GetPoint.relShort, .relOverflow, .relCopied],
      let g := { copied with point := p }
      ({ lastByte with getCall := some g }.getCall = some g ∧ g.point = p ∧ lastByte.dropSkip ≠ lastByte.dropAck) ∧
        ({ State.reset with getCall := some g }.getCall = some g ∧ State.reset.dropSkip = State.reset.dropAck ∧
          State.reset.framesBuffered = 0) := by decide

/-- The other clauses: the release of a record that is not copied, and an `ACQ` of an emptied ring. -/
theorem witness_OverrunRestartsGet_released :
    let g : GetCall := ⟨1, .relOverflow, 4, 0, 0, []⟩
    let h : GetCall := ⟨8, .acq, 0, 0, 0, []⟩
    ((reading g).getCall = some g ∧ g.point = .relOverflow ∧ (reading g).dropSkip = (reading g).dropAck ∧
      (reading g).framesBuffered ≠ 0) ∧
      ({ State.reset with getCall := some h }.getCall = some h ∧ h.point = .acq ∧ State.reset.framesBuffered = 0) := by decide

theorem witness_CheckRejectsRecord :
    let s := reading copied
    s.getCall = some copied ∧ copied.point = .relCopied ∧ s.cfg.ecEn = true ∧ s.dropSkip = s.dropAck ∧ s.framesBuffered ≠ 0 ∧
      (fun _ _ => 0 : Byte → List Byte → Byte) copied.sequence copied.copied ≠ copied.check := by decide

/-- The second clause: a check value 0 that matches, over a payload of zeros. -/
theorem witness_CheckRejectsRecord_zero :
    let g : GetCall := ⟨8, .relCopied, 4, 0, 0, [0, 0]⟩
    let s := reading g
    s.getCall = some g ∧ g.point = .relCopied ∧ s.cfg.ecEn = true ∧ s.dropSkip = s.dropAck ∧ s.framesBuffered ≠ 0 ∧
      sum8 g.sequence g.copied = g.check ∧ sum8 g.sequence g.copied = 0 ∧ ∀ b ∈ g.copied, b = 0 := by decide

/-- The clauses with sequencing on: no sequence yet, a repeat, and a later one. -/
theorem witness_TrackerCountsLosses :
    let s := reading copied
    s.getCall = some copied ∧ copied.point = .relCopied ∧ s.cfg.sqEn = true ∧ s.dropSkip = s.dropAck ∧ s.framesBuffered ≠ 0 ∧
      (s.cfg.ecEn = true → sum8 (if s.cfg.sqEn then copied.sequence else 0) copied.copied = copied.check ∧
        ¬(copied.check = 0 ∧ ∀ b ∈ copied.copied, b = 0)) ∧
      s.lastSequence = none ∧
      ({ s with lastSequence := some 7 }.cfg.ecEn = true ∧ copied.sequence = 7) ∧
      ¬({ s with lastSequence := some 4 }.cfg.ecEn = true ∧ copied.sequence = 4) := by decide

/-- The clause with sequencing off (vector G10, record `[03 83 41 42]`). -/
theorem witness_TrackerCountsLosses_unsequenced :
    let g : GetCall := ⟨8, .relCopied, 3, 0x83, 0, [0x41, 0x42]⟩
    let s := { reading g with cfg := { Cfg.t1 with sqEn := false } }
    s.getCall = some g ∧ g.point = .relCopied ∧ s.cfg.sqEn = false ∧ s.dropSkip = s.dropAck ∧ s.framesBuffered ≠ 0 ∧
      (s.cfg.ecEn = true → sum8 (if s.cfg.sqEn then g.sequence else 0) g.copied = g.check ∧
        ¬(g.check = 0 ∧ ∀ b ∈ g.copied, b = 0)) := by decide

theorem witness_GetMatchesClosedForm :
    RingInv (reading (freshGet 8)) ∧ (reading (freshGet 8)).getCall = some (freshGet 8) :=
  ⟨⟨inv_oneRecord.cfgWf, inv_oneRecord.ringWf, inv_oneRecord.indices, inv_oneRecord.chain, inv_oneRecord.cursor,
    inv_oneRecord.counts⟩, rfl⟩

theorem witness_StepKeepsDuplicatesInternal :
    { oneRecord with getResult := some ⟨.success, 2, 0⟩, schedule := [.get 8] }.noDuplicateReturned ∧
      ∃ t, step { oneRecord with getResult := some ⟨.success, 2, 0⟩, schedule := [.get 8] } = .next t := by
  refine ⟨?_, _, rfl⟩
  intro r h
  cases h
  decide

theorem witness_StepKeepsTrackerUnset :
    let s := { fetching oneRecord .cmd 0x200 with cfg := { Cfg.t1 with sqEn := false } }
    s.trackerIdle ∧ s.cfg.sqEn = false ∧ ∃ t, step s = .next t :=
  ⟨by decide, by decide, _, rfl⟩

theorem witness_SendFallsAtSumsOfPeriods : (4294967295 : Stamp).toNat < 2 ^ Cfg.t1.tw.bits := by decide

theorem witness_SendIsItsEdges :
    { State.reset with tx := some ⟨10000, pulseSegments Cfg.t1 6000⟩ }.tx = some ⟨10000, pulseSegments Cfg.t1 6000⟩ := by rfl

theorem witness_SequenceCountsAfterSend : ∃ s, callSend sum8 [0x41, 0x42] 10000 State.reset = .next s := ⟨_, rfl⟩

theorem witness_OversizedSendRefused :
    State.reset.tx = none ∧ 255 < (List.replicate 254 (0 : Byte)).length + State.reset.cfg.ecEn.toNat + State.reset.cfg.sqEn.toNat ∧
      (List.replicate 253 (0 : Byte)).length + State.reset.cfg.ecEn.toNat + State.reset.cfg.sqEn.toNat ≤ 255 := by
  rw [List.length_replicate, List.length_replicate]
  exact ⟨rfl, by decide, by decide⟩

end Sys2Proof.Tests
end

section
/-! Proofs for spec/00_scope.md: the conditions on a configuration (R12, R17, R18). -/

namespace Sys2Proof

/-! ## The calibration error of one band against another's (O10) -/

/-- Up to 100 percent, a longer period's calibration error grows by no more than the period itself. -/
theorem Cfg.scale_le_scale_add_sub {c : Cfg} (hpct : c.calErrPct ≤ 100) {p q : Nat} (h : p ≤ q) :
    c.scale q ≤ c.scale p + (q - p) := by
  obtain ⟨d, rfl⟩ := Nat.exists_eq_add_of_le h
  have hd : d * c.calErrPct ≤ d * 100 := Nat.mul_le_mul_left d hpct
  simp only [Cfg.scale, Nat.add_mul]
  omega

/-- So a tolerance that leaves the shorter period's lower threshold at or above 0 leaves the longer period's there too (R18). -/
theorem Cfg.lower_threshold_mono {c : Cfg} (hpct : c.calErrPct ≤ 100) {p q : Nat} (h : p ≤ q)
    (hp : c.tolNeg + c.scale p ≤ p) : c.tolNeg + c.scale q ≤ q := by
  have := Cfg.scale_le_scale_add_sub hpct h
  omega

/-! ## Each check of `Cfg.wf` as the condition it stands for (O7) -/

theorem Cfg.periodsOrdered_iff (c : Cfg) :
    c.periodsOrdered = true ↔ c.onePeriod < c.startPeriod ∧ c.zeroPeriod < c.onePeriod ∧ 0 < c.zeroPeriod :=
  decide_eq_true_iff

theorem Cfg.noUnderflow_iff (c : Cfg) :
    c.noUnderflow = true ↔
      ∀ p ∈ [c.startPeriod, c.onePeriod, c.zeroPeriod], c.tolNeg + p * c.calErrPct / 100 ≤ p :=
  List.all_eq_true.trans (forall₂_congr fun _ _ => decide_eq_true_iff)

theorem Cfg.thresholdsFit_iff (c : Cfg) :
    c.thresholdsFit = true ↔
      ∀ t ∈ [c.startLo, c.startHi, c.oneLo, c.oneHi, c.zeroLo, c.zeroHi], t < 2 ^ c.tw.bits :=
  List.all_eq_true.trans (forall₂_congr fun _ _ => decide_eq_true_iff)

theorem Cfg.bandsOrdered_iff (c : Cfg) :
    c.bandsOrdered = true ↔
      ∀ b ∈ [(c.startLo, c.startHi), (c.oneLo, c.oneHi), (c.zeroLo, c.zeroHi)], b.1 ≤ b.2 := by
  simp [Cfg.bandsOrdered]

theorem Cfg.capInRange_iff (c : Cfg) : c.capInRange = true ↔ 4 ≤ c.cap ∧ c.cap ≤ 256 :=
  decide_eq_true_iff

/-- The check subtracts in `Nat`: where `TOL_NEG` exceeds `ZERO_PERIOD` its right side is 0, and it fails as the condition over the
integers does. -/
theorem Cfg.highFits_iff (c : Cfg) : c.highFits = true ↔ (c.highDuration : Int) < c.zeroPeriod - c.tolNeg := by
  simp only [Cfg.highFits, decide_eq_true_eq]
  omega

theorem Cfg.startWidened_iff (c : Cfg) : c.startWidened = true ↔ c.tolPos ≤ c.startMaxError :=
  decide_eq_true_iff

namespace Machine

/-- `in(lo, hi, p)` by `BAND_CLOSED` (40_pulse_discriminator R143). -/
theorem inBand_iff (c : Cfg) (lo hi p : Nat) :
    inBand c lo hi p = true ↔ if c.bandClosed then lo ≤ p ∧ p ≤ hi else lo < p ∧ p < hi := by
  unfold inBand
  split <;> exact decide_eq_true_iff

/-- A period is NOISE exactly when it lies in no band (40_pulse_discriminator R143). -/
theorem classify_eq_noise_iff (c : Cfg) (p : Nat) :
    classify c p = .noise ↔
      ∀ b ∈ [(c.startLo, c.startHi), (c.oneLo, c.oneHi), (c.zeroLo, c.zeroHi)], ¬inBand c b.1 b.2 p = true := by
  rw [List.forall_mem_cons, List.forall_mem_cons, List.forall_mem_singleton]
  unfold classify
  split
  next hstart => simp [hstart]
  next hstart =>
    split
    next hone => simp [hone]
    next hone =>
      split
      next hzero => simp [hzero]
      next hzero => simp [hstart, hone, hzero]

/-- A configuration that is not well formed is refused before anything is scheduled (R18, 93_implementation_defined U16). -/
theorem step_of_not_wf {s : State} (h : ¬s.cfg.wf = true) : step s = .refused .illFormedConfig :=
  if_neg h

end Machine

theorem Cfg.burstIsNoise_iff (c : Cfg) :
    c.burstIsNoise = true ↔
      ∀ p ∈ c.noiseBurst, p < 2 ^ c.tw.bits ∧
        ∀ b ∈ [(c.startLo, c.startHi), (c.oneLo, c.oneHi), (c.zeroLo, c.zeroHi)],
          ¬(if c.bandClosed then b.1 ≤ p ∧ p ≤ b.2 else b.1 < p ∧ p < b.2) := by
  simp only [Cfg.burstIsNoise, List.all_eq_true, decide_eq_true_eq, Machine.classify_eq_noise_iff, Machine.inBand_iff]

/-- `Cfg.wf` is its eight checks together: the converse of `Cfg.wf_parts`. -/
theorem Cfg.wf_iff_checks (c : Cfg) :
    c.wf = true ↔
      c.periodsOrdered = true ∧ c.noUnderflow = true ∧ c.thresholdsFit = true ∧ c.bandsOrdered = true ∧ c.capInRange = true ∧
        c.highFits = true ∧ c.startWidened = true ∧ c.burstIsNoise = true := by
  refine ⟨Cfg.wf_parts, ?_⟩
  rintro ⟨hperiods, hunder, hfit, hbands, hcap, hhigh, hwide, hburst⟩
  simp only [Cfg.wf, hperiods, hunder, hfit, hbands, hcap, hhigh, hwide, hburst, Bool.and_self]

/-! ## The obligations -/

/-- Settles O10: ZERO is the shortest of the three periods, and a lower threshold that does not underflow for it does not for a longer one. -/
theorem zeroBandGuardsAllBands : Obligations.ZeroBandGuardsAllBands := by
  intro c hpct hordered hzero
  obtain ⟨hone_start, hzero_one, -⟩ := c.periodsOrdered_iff.mp hordered
  have hshortest : ∀ p ∈ [c.startPeriod, c.onePeriod, c.zeroPeriod], c.zeroPeriod ≤ p := by
    simp [hzero_one.le, (hzero_one.trans hone_start).le]
  exact c.noUnderflow_iff.mpr fun p hp => Cfg.lower_threshold_mono hpct (hshortest p hp) hzero

/-- Settles O7: check by check, `Cfg.wf` is the conditions, and a step refuses where it fails. -/
theorem illFormedConfigRefused : Obligations.IllFormedConfigRefused := by
  intro s c conditions
  have hwf : c.wf = true ↔ conditions := by
    rw [Cfg.wf_iff_checks, Cfg.periodsOrdered_iff, Cfg.noUnderflow_iff, Cfg.thresholdsFit_iff, Cfg.bandsOrdered_iff,
      Cfg.capInRange_iff, Cfg.highFits_iff, Cfg.startWidened_iff, Cfg.burstIsNoise_iff]
  exact ⟨hwf.mpr, fun hnot => Machine.step_of_not_wf (mt hwf.mp hnot)⟩

end Sys2Proof
end

section
/-! Proofs for spec/10_state.md: the width of the stored times (R31) and the registers at reset (R56). -/

namespace Sys2Proof

/-- The counter's value has `TW` bits (R31). -/
theorem Cfg.stamp_toNat_lt (c : Cfg) (t : Stamp) : (c.stamp t).toNat < 2 ^ c.tw.bits := by
  rw [Cfg.stamp, BitVec.toNat_ofNat]
  exact (Nat.mod_le _ _).trans_lt (Nat.mod_lt _ (Nat.two_pow_pos _))

theorem Cfg.stamp_zero (c : Cfg) : c.stamp 0 = 0 := by simp [Cfg.stamp]

namespace Machine

/-! ## The stored times and the width they are held to -/

/-- What the bound of R31 speaks of: the configuration, which fixes `TW`, and the two stored times. -/
def State.timebase (s : State) : Cfg × Stamp × Stamp := (s.cfg, s.lastEdge, s.nowBus)

theorem timebase_eq_iff (s t : State) :
    t.timebase = s.timebase ↔ t.cfg = s.cfg ∧ t.lastEdge = s.lastEdge ∧ t.nowBus = s.nowBus := by
  simp only [State.timebase, Prod.mk.injEq]

/-- The bound of R31 depends on the timebase alone. -/
theorem stampsFit_of_timebase_eq {s t : State} (h : t.timebase = s.timebase) (hs : s.stampsFit) : t.stampsFit := by
  obtain ⟨hcfg, hedge, hnow⟩ := (timebase_eq_iff s t).mp h
  rw [State.stampsFit, hcfg, hedge, hnow]
  exact hs

/-- A time is truncated where it is stored in `last_edge`. -/
theorem setLastEdge_stampsFit {s : State} (u : Stamp) (hs : s.stampsFit) : (s.setLastEdge u).stampsFit :=
  ⟨s.cfg.stamp_toNat_lt u, hs.2⟩

/-- A time is truncated where it is put on the `now` bus. -/
theorem setNowBus_stampsFit {s : State} (u : Stamp) (hs : s.stampsFit) : (s.setNowBus u).stampsFit :=
  ⟨hs.1, s.cfg.stamp_toNat_lt u⟩

/-! ## No symbol writes a stored time (42_frame_assembler R182) -/

theorem commit_timebase (s : State) : (commit s).timebase = s.timebase := by
  obtain ⟨-, h⟩ | ⟨-, -, h⟩ | ⟨-, -, h⟩ := commit_cases s <;> rw [h] <;> rfl

theorem advance_timebase (s : State) : (advance s).timebase = s.timebase := by
  obtain ⟨-, -, h⟩ | ⟨-, h⟩ := advance_cases s <;> rw [h] <;> rfl

theorem storeByte_timebase (v : Byte) (s : State) : (storeByte v s).timebase = s.timebase := by
  obtain ⟨-, h⟩ | ⟨-, h⟩ := storeByte_cases v s
  · rw [h, advance_timebase]
    exact advance_timebase s
  · rw [h, advance_timebase]
    rfl

theorem byteReceived_timebase (v : Byte) (s : State) : (byteReceived v s).timebase = s.timebase := by
  obtain ⟨-, -, h⟩ | ⟨-, -, -, h⟩ | ⟨-, -, h⟩ | ⟨-, -, h⟩ := byteReceived_cases v s
  · rw [h, commit_timebase]
    rfl
  · rw [h]
    rfl
  · rw [h, commit_timebase]
    exact storeByte_timebase v s
  · rw [h]
    exact storeByte_timebase v s

theorem pushBit_timebase (b : Bool) (s : State) : (pushBit b s).timebase = s.timebase := by
  obtain ⟨-, h⟩ | ⟨-, h⟩ := pushBit_cases b s
  · rw [h, byteReceived_timebase]
    rfl
  · rw [h]
    rfl

theorem symbolBit_timebase (b : Bool) (s : State) : (symbolBit b s).timebase = s.timebase := by
  obtain ⟨-, h⟩ | ⟨-, h⟩ := symbolBit_cases b s
  · rw [h, pushBit_timebase]
  · rw [h]

theorem handle_timebase (y : Symbol) (s : State) : (handle y s).timebase = s.timebase :=
  match y with
  | .start => commit_timebase s
  | .one => symbolBit_timebase true s
  | .zero => symbolBit_timebase false s
  | .noise => commit_timebase s

/-! ## Of the operations only `EDGE` and `RST` write `last_edge` (10_state R31, 70_reset R300) -/

/-- An operation leaves the timebase alone or stores one truncated time in `last_edge`; `RST` stores 0. -/
theorem exec_timebase_cases {i : Instr} {s t : State} (h : exec i s = .next t) :
    t.timebase = s.timebase ∨ ∃ u, t.timebase = (s.setLastEdge u).timebase := by
  cases i with
  | edge u =>
    cases h
    exact .inr ⟨u, handle_timebase _ (s.setLastEdge u)⟩
  | symStart => cases h; exact .inl (handle_timebase .start s)
  | symOne => cases h; exact .inl (handle_timebase .one s)
  | symZero => cases h; exact .inl (handle_timebase .zero s)
  | symNoise => cases h; exact .inl (handle_timebase .noise s)
  | nop _ => cases h; exact .inl rfl
  | stat _ => cases h; exact .inl rfl
  | acq a => obtain ⟨-, e⟩ | ⟨-, e⟩ := exec_acq_cases a s <;> cases e.symm.trans h <;> exact .inl rfl
  | rdb _ => cases h; exact .inl rfl
  | rel a => obtain ⟨-, e⟩ | ⟨-, -, e⟩ | ⟨-, -, e⟩ := exec_rel_cases a s <;> cases e.symm.trans h <;> exact .inl rfl
  | tmo a =>
    obtain ⟨-, e⟩ | ⟨-, e⟩ := exec_tmo_cases a s <;> cases e.symm.trans h
    · exact .inl (commit_timebase s)
    · exact .inl rfl
  | rst _ =>
    cases h
    have hzero : (s.setLastEdge 0).lastEdge = 0 := s.cfg.stamp_zero
    exact .inr ⟨0, (timebase_eq_iff _ _).mpr ⟨rfl, hzero.symm, rfl⟩⟩

theorem exec_keeps_stampsFit {i : Instr} {s t : State} (hs : s.stampsFit) (h : exec i s = .next t) : t.stampsFit := by
  obtain heq | ⟨u, heq⟩ := exec_timebase_cases h
  · exact stampsFit_of_timebase_eq heq hs
  · exact stampsFit_of_timebase_eq heq (setLastEdge_stampsFit u hs)

/-! ## `GET` writes no stored time of its own (44_frame_consumer R241) -/

theorem acquired_timebase (g : GetCall) (len : Byte) (s : State) : (acquired g len s).timebase = s.timebase := by
  unfold acquired
  split
  next => rfl
  next =>
    split
    next => split <;> rfl
    next => rfl

theorem concludeGet_timebase (chk : Byte → List Byte → Byte) (g : GetCall) (s : State) :
    (concludeGet chk g s).timebase = s.timebase := by
  unfold concludeGet
  split <;> rfl

theorem answerGet_timebase (chk : Byte → List Byte → Byte) (g : GetCall) (rc : BitVec 2) (data : Byte) (s : State) :
    (answerGet chk g rc data s).timebase = s.timebase := by
  unfold answerGet
  cases g.point with
  | stat => dsimp only; split <;> rfl
  | acq =>
    dsimp only
    split
    · exact acquired_timebase g data s
    · rfl
  | relShort => dsimp only; split <;> rfl
  | relOverflow => dsimp only; split <;> rfl
  | rdbCheck => rfl
  | rdbSequence => rfl
  | rdbPayload => rfl
  | relCopied =>
    dsimp only
    split
    · exact concludeGet_timebase chk g s
    · rfl

theorem takeResponse_timebase (chk : Byte → List Byte → Byte) (g : GetCall) (s : State) :
    (takeResponse chk g s).timebase = s.timebase := by
  unfold takeResponse
  split
  · exact answerGet_timebase chk g _ _ s
  · rfl

/-! ## Each request keeps the bound -/

theorem runWord_keeps_stampsFit {p : Port} {w : BitVec 65} {now : Stamp} {s t : State} (hs : s.stampsFit)
    (h : runWord p w now s = .next t) : t.stampsFit := by
  have hbus : (s.setNowBus (busTime s.cfg.tw p w now)).stampsFit := setNowBus_stampsFit _ hs
  obtain ⟨i, -, -, hexec⟩ | ⟨op, -, rfl⟩ | ⟨-, rfl⟩ := runWord_cases h
  · exact exec_keeps_stampsFit hbus hexec
  · exact stampsFit_of_timebase_eq rfl hbus
  · exact stampsFit_of_timebase_eq rfl hbus

theorem getStep_keeps_stampsFit {chk : Byte → List Byte → Byte} {s t : State} (hs : s.stampsFit)
    (h : getStep chk s = .next t) : t.stampsFit := by
  obtain ⟨-, rfl⟩ | ⟨g, u, -, hexec, rfl⟩ := getStep_cases h
  · exact hs
  · exact stampsFit_of_timebase_eq (takeResponse_timebase chk g u) (exec_keeps_stampsFit hs hexec)

/-- The one segment that matters is a fall of the pin: an `EDGE`, with its time on the `now` bus. -/
theorem sendStep_keeps_stampsFit {s t : State} (hs : s.stampsFit) (h : sendStep s = .next t) : t.stampsFit := by
  obtain ⟨-, rfl⟩ | ⟨u, -, rfl⟩ | ⟨u, g, rest, -, -, rfl⟩ | ⟨u, g, rest, -, -, -, hexec⟩ := sendStep_cases h
  · exact hs
  · exact stampsFit_of_timebase_eq rfl hs
  · exact stampsFit_of_timebase_eq rfl hs
  · have hdriven : (driveSegment u g rest s).stampsFit := stampsFit_of_timebase_eq rfl hs
    exact exec_keeps_stampsFit (setNowBus_stampsFit u hdriven) hexec

theorem perform_keeps_stampsFit {r : Request} {s t : State} (hs : s.stampsFit) (h : perform r s = .next t) :
    t.stampsFit := by
  cases r with
  | word p w now => exact runWord_keeps_stampsFit hs h
  | get cap =>
    obtain ⟨-, rfl⟩ := callGet_cases h
    exact stampsFit_of_timebase_eq rfl hs
  | getStep => exact getStep_keeps_stampsFit hs h
  | send payload t0 =>
    obtain ⟨-, -, rfl⟩ := callSend_cases h
    exact stampsFit_of_timebase_eq rfl hs
  | sendStep => exact sendStep_keeps_stampsFit hs h
  | forceSequence v =>
    cases h
    exact stampsFit_of_timebase_eq rfl hs

/-! ## Bytes nothing has written -/

/-- A ring byte that nothing has written since reset is a free value (R45; log 3). -/
theorem ringByte_of_unwritten {s : State} {a : Byte} (h : s.ring.read? (a.toNat % s.cfg.cap) = none) :
    s.ringByte a = Config.unwrittenByte s.ringEpoch (a.toNat % s.cfg.cap) := by
  rw [State.ringByte, h, Option.getD_none]

end Machine

/-! ## The obligations -/

/-- Settles O47: every time is truncated to `TW` bits where it is stored, and taking a request off the schedule stores none. -/
theorem stepKeepsTimestampsInWidth : Obligations.StepKeepsTimestampsInWidth := by
  intro s t hs h
  obtain ⟨-, ⟨-, rfl⟩ | ⟨r, rest, -, hperform⟩⟩ := Machine.step_cases h
  · exact hs
  · have hscheduled : (s.setSchedule rest).stampsFit := Machine.stampsFit_of_timebase_eq rfl hs
    exact Machine.perform_keeps_stampsFit hscheduled hperform

/-- Settles O49: the registers as the reset state lists them; its ring lists no byte, so each is a free value. -/
theorem resetRegisterValues : Obligations.ResetRegisterValues :=
  ⟨rfl, rfl, rfl, rfl, rfl, rfl, rfl, rfl, rfl, rfl, rfl, rfl, rfl, rfl, fun _ => Machine.ringByte_of_unwritten rfl⟩

end Sys2Proof
end

section
/-! Proofs for spec/20_memory.md: the order of bits (R74), repeated reads (R76), one operation at a time (R81), and who may write what
(R70, R80, R90, R92). -/

namespace Sys2Proof.Machine

open Host

/-! ## Bit order (R74) -/

/-- Where the accumulator of R188 holds the bit that entered it `age` bits ago: counted from bit 0 with `MSB_FIRST`, from bit 7 with
`LSB_FIRST`. It is its own inverse on the eight positions. -/
def bitSlot (o : BitOrder) (age : Nat) : Nat :=
  match o with
  | .msbFirst => age
  | .lsbFirst => 7 - age

theorem bitSlot_lt (o : BitOrder) {i : Nat} (hi : i < 8) : bitSlot o i < 8 := by
  cases o <;> simp only [bitSlot] <;> omega

theorem bitSlot_bitSlot (o : BitOrder) {i : Nat} (hi : i < 8) : bitSlot o (bitSlot o i) = i := by
  cases o <;> simp only [bitSlot]
  omega

theorem shiftIn_msbFirst_getLsbD (acc : Byte) (b : Bool) (i : Nat) :
    (shiftIn .msbFirst acc b).getLsbD i = if i = 0 then b else decide (i - 1 < 7) && acc.getLsbD (i - 1) := by
  have happend : (shiftIn .msbFirst acc b).getLsbD i = _ := BitVec.getLsbD_append (x := acc.extractLsb' 0 7)
  rw [happend, BitVec.getLsbD_ofBool, BitVec.getLsbD_extractLsb', Nat.zero_add]
  by_cases hi : i = 0 <;> simp [hi]

theorem shiftIn_lsbFirst_getLsbD (acc : Byte) (b : Bool) (i : Nat) :
    (shiftIn .lsbFirst acc b).getLsbD i = if i < 7 then acc.getLsbD (1 + i) else decide (i = 7) && b := by
  have happend : (shiftIn .lsbFirst acc b).getLsbD i = _ := BitVec.getLsbD_append (y := acc.extractLsb' 1 7)
  rw [happend, BitVec.getLsbD_ofBool, BitVec.getLsbD_extractLsb']
  by_cases hi : i < 7
  · simp [hi]
  · have hseven : i - 7 = 0 ↔ i = 7 := by omega
    simp [hi, hseven]

/-- The newest bit is the one just shifted in. -/
theorem shiftIn_getLsbD_newest (o : BitOrder) (acc : Byte) (b : Bool) :
    (shiftIn o acc b).getLsbD (bitSlot o 0) = b := by
  cases o with
  | msbFirst => exact shiftIn_msbFirst_getLsbD acc b 0
  | lsbFirst => exact shiftIn_lsbFirst_getLsbD acc b 7

/-- Every bit but the oldest is kept, and is one bit older. -/
theorem shiftIn_getLsbD_older (o : BitOrder) (acc : Byte) (b : Bool) {age : Nat} (h : age + 1 < 8) :
    (shiftIn o acc b).getLsbD (bitSlot o (age + 1)) = acc.getLsbD (bitSlot o age) := by
  cases o with
  | msbFirst =>
    have hage : age < 7 := by omega
    simp [bitSlot, shiftIn_msbFirst_getLsbD, hage]
  | lsbFirst =>
    have hslot : 7 - (age + 1) < 7 := by omega
    have hnext : 1 + (7 - (age + 1)) = 7 - age := by omega
    rw [bitSlot, shiftIn_lsbFirst_getLsbD, if_pos hslot, hnext, bitSlot]

/-- After a run of bits the accumulator holds them, the last one newest; what it held before is older than all of them. -/
theorem foldl_shiftIn_getLsbD (o : BitOrder) (acc : Byte) (bits : List Bool) :
    ∀ age, age < 8 → age < bits.length →
      some ((bits.foldl (shiftIn o) acc).getLsbD (bitSlot o age)) = bits.reverse[age]? := by
  induction bits using List.reverseRecOn with
  | nil => intro age _ hlen; cases hlen
  | append_singleton bits b ih =>
    intro age hage hlen
    rw [List.foldl_concat, List.reverse_concat]
    cases age with
    | zero => rw [shiftIn_getLsbD_newest, List.getElem?_cons_zero]
    | succ age =>
      rw [List.length_append, List.length_singleton] at hlen
      rw [shiftIn_getLsbD_older o _ b hage, List.getElem?_cons_succ]
      exact ih age (by omega) (by omega)

/-- The bit of a byte that travels at place `k` ends up `7 - k` bits old (30_encoding R104). -/
theorem byteBits_eq_map_bitSlot (o : BitOrder) (v : Byte) :
    byteBits o v = (List.range 8).map fun k => v.getLsbD (bitSlot o (7 - k)) := by
  cases o <;> rfl

theorem byteBits_length (o : BitOrder) (v : Byte) : (byteBits o v).length = 8 := by
  cases o <;> rfl

theorem byteBits_reverse_getElem? (o : BitOrder) (v : Byte) {age : Nat} (h : age < 8) :
    (byteBits o v).reverse[age]? = some (v.getLsbD (bitSlot o age)) := by
  have hplace : 7 - (7 - age) = age := by omega
  have hlt : 7 - age < 8 := by omega
  rw [List.getElem?_reverse (by rwa [byteBits_length]), byteBits_length, byteBits_eq_map_bitSlot]
  simp [hplace, hlt]

/-! ## A second `ACQ` (R76) -/

theorem idxAdd_toNat {cap : Nat} (hpos : 0 < cap) (hcap : cap ≤ 256) (i : Byte) (n : Nat) :
    (idxAdd cap i n).toNat = (i.toNat + n) % cap := by
  have hlt : (i.toNat + n) % cap < cap := Nat.mod_lt _ hpos
  rw [idxAdd, BitVec.toNat_ofNat]
  exact Nat.mod_eq_of_lt (by omega)

theorem idxAdd_lt {cap : Nat} (hpos : 0 < cap) (hcap : cap ≤ 256) (i : Byte) (n : Nat) : (idxAdd cap i n).toNat < cap := by
  rw [idxAdd_toNat hpos hcap]
  exact Nat.mod_lt _ hpos

theorem idxAdd_zero {cap : Nat} {i : Byte} (h : i.toNat < cap) : idxAdd cap i 0 = i := by
  rw [idxAdd, Nat.add_zero, Nat.mod_eq_of_lt h, BitVec.ofNat_toNat, BitVec.setWidth_eq]

theorem idxSub_self (cap : Nat) (i : Byte) : idxSub cap i i = 0 :=
  (if_pos le_rfl).trans (BitVec.sub_self i)

/-- `tail` is an index (43_ring_buffer R213). -/
theorem tail_lt {s : State} (h : s.cfg.wf = true) : s.tail.toNat < s.cfg.cap := by
  obtain ⟨hlo, hhi⟩ := Cfg.cap_bounds h
  exact idxAdd_lt (by omega) hhi _ _

/-- With no drop since, `tail` is `read_index` (R213). -/
theorem tail_eq_readIndex {s : State} (hack : s.dropAck = s.dropSkip) (hread : s.readIndex.toNat < s.cfg.cap) :
    s.tail = s.readIndex := by
  rw [State.tail, hack, idxSub_self]
  exact idxAdd_zero hread

/-- An `ACQ` leaves `tail` where it was, in `read_index` (43_ring_buffer R222). -/
theorem setReader_tail {s : State} (h : s.cfg.wf = true) : (s.setReader s.tail s.dropSkip).tail = s.tail :=
  tail_eq_readIndex (s := s.setReader s.tail s.dropSkip) rfl (tail_lt h)

theorem exec_acq_of_empty (a : Byte) {s : State} (h : s.framesBuffered = 0) :
    exec (.acq a) s = .next (s.respond .empty 0) :=
  if_pos h

theorem exec_acq_of_buffered (a : Byte) {s : State} (h : s.framesBuffered ≠ 0) :
    exec (.acq a) s = .next ((s.setReader s.tail s.dropSkip).respond .ok (s.ringByte s.tail)) :=
  if_neg h

/-! ## What the assembler's handlers keep (R80)

The handlers of 42_frame_assembler are made of a few named updates, so what each update keeps, each handler keeps. -/

/-- `P` is kept by every update that `EDGE`, a symbol and `TMO` are made of. -/
structure ClosedUnderProducer (P : State → Prop) : Prop where
  writeRing : ∀ {s} a v, P s → P (s.writeRing a v)
  setLastEdge : ∀ {s} t, P s → P (s.setLastEdge t)
  openFrame : ∀ {s}, P s → P s.openFrame
  clearFip : ∀ {s}, P s → P s.clearFip
  setShift : ∀ {s} acc n, P s → P (s.setShift acc n)
  setDeclared : ∀ {s} v, P s → P (s.setDeclared v)
  setByteCnt : ∀ {s} n, P s → P (s.setByteCnt n)
  setWriteIndex : ∀ {s} w, P s → P (s.setWriteIndex w)
  setDropped : ∀ {s} k n, P s → P (s.setDropped k n)
  setFrames : ∀ {s} n, P s → P (s.setFrames n)
  silent : ∀ {s}, P s → P s.silent
  respond : ∀ {s} rc v, P s → P (s.respond rc v)

namespace ClosedUnderProducer

variable {P : State → Prop}

theorem commit (hP : ClosedUnderProducer P) {s : State} (h : P s) : P (commit s) := by
  obtain ⟨-, e⟩ | ⟨-, -, e⟩ | ⟨-, -, e⟩ := commit_cases s <;> rw [e]
  · exact h
  · exact hP.clearFip h
  · exact hP.setFrames _ (hP.writeRing _ _ (hP.clearFip h))

theorem advance (hP : ClosedUnderProducer P) {s : State} (h : P s) : P (advance s) := by
  obtain ⟨-, -, e⟩ | ⟨-, e⟩ := advance_cases s <;> rw [e]
  · exact hP.setWriteIndex _ (hP.setDropped _ _ h)
  · exact hP.setWriteIndex _ h

theorem storeByte (hP : ClosedUnderProducer P) (v : Byte) {s : State} (h : P s) : P (storeByte v s) := by
  obtain ⟨-, e⟩ | ⟨-, e⟩ := storeByte_cases v s <;> rw [e]
  · exact hP.advance (hP.writeRing _ _ (hP.advance h))
  · exact hP.advance (hP.writeRing _ _ h)

theorem byteReceived (hP : ClosedUnderProducer P) (v : Byte) {s : State} (h : P s) : P (byteReceived v s) := by
  obtain ⟨-, -, e⟩ | ⟨-, -, -, e⟩ | ⟨-, -, e⟩ | ⟨-, -, e⟩ := byteReceived_cases v s <;> rw [e]
  · exact hP.commit (hP.setDeclared v h)
  · exact hP.setDeclared v h
  · exact hP.commit (hP.setByteCnt _ (hP.storeByte v h))
  · exact hP.setByteCnt _ (hP.storeByte v h)

theorem pushBit (hP : ClosedUnderProducer P) (b : Bool) {s : State} (h : P s) : P (pushBit b s) := by
  obtain ⟨-, e⟩ | ⟨-, e⟩ := pushBit_cases b s <;> rw [e]
  · exact hP.byteReceived _ (hP.setShift _ _ h)
  · exact hP.setShift _ _ h

theorem symbolBit (hP : ClosedUnderProducer P) (b : Bool) {s : State} (h : P s) : P (symbolBit b s) := by
  obtain ⟨-, e⟩ | ⟨-, e⟩ := symbolBit_cases b s <;> rw [e]
  · exact hP.pushBit b h
  · exact h

theorem handle (hP : ClosedUnderProducer P) (y : Symbol) {s : State} (h : P s) : P (handle y s) :=
  match y with
  | .start => hP.openFrame (hP.commit h)
  | .one => hP.symbolBit true h
  | .zero => hP.symbolBit false h
  | .noise => hP.commit h

theorem edgeState (hP : ClosedUnderProducer P) (t : Stamp) {s : State} (h : P s) : P (edgeState t s) :=
  hP.silent (hP.handle _ (hP.setLastEdge t h))

theorem tmo (hP : ClosedUnderProducer P) (a : Byte) {s t : State} (h : P s) (hexec : exec (.tmo a) s = .next t) : P t := by
  obtain ⟨-, e⟩ | ⟨-, e⟩ := exec_tmo_cases a s <;> cases e.symm.trans hexec
  · exact hP.respond _ _ (hP.commit h)
  · exact hP.respond _ _ h

end ClosedUnderProducer

/-! ## The registers the producer does not own (R80) -/

theorem sameBesideProducer_refl (s : State) : s.sameBesideProducer s :=
  ⟨⟨rfl, rfl, rfl⟩, ⟨rfl, rfl, rfl, rfl, rfl, rfl, rfl, rfl, rfl⟩, rfl⟩

/-- No update of the producer writes a register of the consumer, of a companion or the configuration. -/
theorem closedUnderProducer_sameBesideProducer (s : State) : ClosedUnderProducer s.sameBesideProducer where
  writeRing _ _ h := h
  setLastEdge _ h := h
  openFrame h := h
  clearFip h := h
  setShift _ _ h := h
  setDeclared _ h := h
  setByteCnt _ h := h
  setWriteIndex _ h := h
  setDropped _ _ h := h
  setFrames _ h := h
  silent h := h
  respond _ _ h := h

theorem edgeState_sameBesideProducer (t : Stamp) (s : State) : s.sameBesideProducer (edgeState t s) :=
  (closedUnderProducer_sameBesideProducer s).edgeState t (sameBesideProducer_refl s)

/-! ## The canonical form of the ring (R70; log 3) -/

/-- A canonical ring under the configuration `c`. -/
def State.canonicalUnder (c : Cfg) (s : State) : Prop := s.cfg = c ∧ s.ring.wf c.cap = true

/-- Of the producer's updates only the ring write concerns the form, and it keeps it. -/
theorem closedUnderProducer_canonicalUnder {c : Cfg} (hcap : 0 < c.cap) :
    ClosedUnderProducer (State.canonicalUnder c) where
  writeRing a v := by
    rintro ⟨rfl, hring⟩
    exact ⟨rfl, writeRing_wf a v hring hcap⟩
  setLastEdge _ h := h
  openFrame h := h
  clearFip h := h
  setShift _ _ h := h
  setDeclared _ h := h
  setByteCnt _ h := h
  setWriteIndex _ h := h
  setDropped _ _ h := h
  setFrames _ h := h
  silent h := h
  respond _ _ h := h

/-- No operation breaks the form: the producer's by their updates, the readers write no ring byte, `RST` empties the list. -/
theorem exec_keeps_canonicalUnder {c : Cfg} (hcap : 0 < c.cap) {i : Instr} {s t : State} (hs : s.canonicalUnder c)
    (h : exec i s = .next t) : t.canonicalUnder c := by
  have hprod := closedUnderProducer_canonicalUnder hcap
  cases i with
  | edge u => cases h; exact hprod.edgeState u hs
  | symStart => cases h; exact hprod.silent (hprod.handle .start hs)
  | symOne => cases h; exact hprod.silent (hprod.handle .one hs)
  | symZero => cases h; exact hprod.silent (hprod.handle .zero hs)
  | symNoise => cases h; exact hprod.silent (hprod.handle .noise hs)
  | nop _ => cases h; exact hs
  | stat _ => cases h; exact hs
  | acq a => obtain ⟨-, e⟩ | ⟨-, e⟩ := exec_acq_cases a s <;> cases e.symm.trans h <;> exact hs
  | rdb _ => cases h; exact hs
  | rel a => obtain ⟨-, e⟩ | ⟨-, -, e⟩ | ⟨-, -, e⟩ := exec_rel_cases a s <;> cases e.symm.trans h <;> exact hs
  | tmo a => exact hprod.tmo a hs h
  | rst _ => cases h; exact ⟨hs.1, rfl⟩

/-! ## A step is at most one operation of the block (R81) -/

/-- The block without its companions: every register and ring byte that only the operations of the table write, the configuration among
them, with the other fields of the state set aside. -/
def State.receiver (s : State) : State :=
  { s with
    lastSequence := none, txSequence := 0, tx := none, txPin := .high, getCall := none, getResult := none, outBuffer := [],
    rsp := none, nowBus := 0, schedule := [] }

/-- From `s` to `t` the receiver is unchanged or has run one operation. -/
def State.runsOneOperation (s t : State) : Prop :=
  t.receiver = s.receiver ∨ ∃ i u v, u.receiver = s.receiver ∧ exec i u = .next v ∧ t.receiver = v.receiver

theorem acquired_receiver (g : GetCall) (len : Byte) (s : State) : (acquired g len s).receiver = s.receiver := by
  unfold acquired
  split
  next => rfl
  next =>
    split
    next => split <;> rfl
    next => rfl

theorem concludeGet_receiver (chk : Byte → List Byte → Byte) (g : GetCall) (s : State) :
    (concludeGet chk g s).receiver = s.receiver := by
  unfold concludeGet
  split <;> rfl

theorem answerGet_receiver (chk : Byte → List Byte → Byte) (g : GetCall) (rc : BitVec 2) (data : Byte) (s : State) :
    (answerGet chk g rc data s).receiver = s.receiver := by
  unfold answerGet
  cases g.point with
  | stat => dsimp only; split <;> rfl
  | acq =>
    dsimp only
    split
    · exact acquired_receiver g data s
    · rfl
  | relShort => dsimp only; split <;> rfl
  | relOverflow => dsimp only; split <;> rfl
  | rdbCheck => rfl
  | rdbSequence => rfl
  | rdbPayload => rfl
  | relCopied =>
    dsimp only
    split
    · exact concludeGet_receiver chk g s
    · rfl

/-- What `GET` does with a response concerns its own fields and the tracker (44_frame_consumer R241). -/
theorem takeResponse_receiver (chk : Byte → List Byte → Byte) (g : GetCall) (s : State) :
    (takeResponse chk g s).receiver = s.receiver := by
  unfold takeResponse
  split
  · exact answerGet_receiver chk g _ _ s
  · rfl

theorem runWord_runsOneOperation {p : Port} {w : BitVec 65} {now : Stamp} {s t : State} (h : runWord p w now s = .next t) :
    s.runsOneOperation t := by
  obtain ⟨i, -, -, hexec⟩ | ⟨-, -, rfl⟩ | ⟨-, rfl⟩ := runWord_cases h
  · exact .inr ⟨i, s.setNowBus _, t, rfl, hexec, rfl⟩
  · exact .inl rfl
  · exact .inl rfl

theorem getStep_runsOneOperation {chk : Byte → List Byte → Byte} {s t : State} (h : getStep chk s = .next t) :
    s.runsOneOperation t := by
  obtain ⟨-, rfl⟩ | ⟨g, v, -, hexec, rfl⟩ := getStep_cases h
  · exact .inl rfl
  · exact .inr ⟨_, s, v, rfl, hexec, takeResponse_receiver chk g v⟩

theorem sendStep_runsOneOperation {s t : State} (h : sendStep s = .next t) : s.runsOneOperation t := by
  obtain ⟨-, rfl⟩ | ⟨-, -, rfl⟩ | ⟨-, -, -, -, -, rfl⟩ | ⟨u, g, rest, -, -, -, hexec⟩ := sendStep_cases h
  · exact .inl rfl
  · exact .inl rfl
  · exact .inl rfl
  · exact .inr ⟨.edge u, (driveSegment u g rest s).setNowBus u, t, rfl, hexec, rfl⟩

theorem perform_runsOneOperation {r : Request} {s t : State} (h : perform r s = .next t) : s.runsOneOperation t := by
  cases r with
  | word p w now => exact runWord_runsOneOperation h
  | get n => obtain ⟨-, rfl⟩ := callGet_cases h; exact .inl rfl
  | getStep => exact getStep_runsOneOperation h
  | send payload t0 => obtain ⟨-, -, rfl⟩ := callSend_cases h; exact .inl rfl
  | sendStep => exact sendStep_runsOneOperation h
  | forceSequence v => cases h; exact .inl rfl

/-- So an invariant of the block needs to be shown for `exec` alone. -/
theorem step_runsOneOperation {s t : State} (h : step s = .next t) : s.runsOneOperation t := by
  obtain ⟨-, ⟨-, rfl⟩ | ⟨r, rest, -, hperform⟩⟩ := step_cases h
  · exact .inl rfl
  · exact perform_runsOneOperation (s := s.setSchedule rest) hperform

theorem cfg_of_receiver_eq {s t : State} (h : t.receiver = s.receiver) : t.cfg = s.cfg :=
  (congrArg State.cfg h :)

theorem ring_of_receiver_eq {s t : State} (h : t.receiver = s.receiver) : t.ring = s.ring :=
  (congrArg State.ring h :)

theorem canonicalUnder_of_receiver_eq {c : Cfg} {s t : State} (h : t.receiver = s.receiver) (hs : s.canonicalUnder c) :
    t.canonicalUnder c := by
  rw [State.canonicalUnder, cfg_of_receiver_eq h, ring_of_receiver_eq h]
  exact hs

/-- No operation writes the configuration (R90). -/
theorem exec_cfg {i : Instr} {s t : State} (h : exec i s = .next t) : t.cfg = s.cfg := by
  obtain heq | ⟨u, heq⟩ := exec_timebase_cases h <;> exact congrArg Prod.fst heq

/-! ## The transmitter's line (R92, 41_transmitter_encoder R170) -/

/-- The state but for the transmission, its pin and the `now` bus. -/
def State.offLine (s : State) : State := { s with tx := none, txPin := .high, nowBus := 0 }

theorem commit_offLine (s : State) : commit s.offLine = (commit s).offLine := by
  simp only [commit, apply_ite State.offLine]
  rfl

theorem advance_offLine (s : State) : advance s.offLine = (advance s).offLine := by
  simp only [advance, apply_ite State.offLine]
  rfl

theorem storeByte_offLine (v : Byte) (s : State) : storeByte v s.offLine = (storeByte v s).offLine := by
  simp only [storeByte, apply_ite State.offLine, ← advance_offLine]
  rw [advance_offLine s]
  rfl

theorem byteReceived_offLine (v : Byte) (s : State) : byteReceived v s.offLine = (byteReceived v s).offLine := by
  simp only [byteReceived, lengthByte, dataByte, apply_ite State.offLine, ← commit_offLine, storeByte_offLine]
  rfl

theorem pushBit_offLine (b : Bool) (s : State) : pushBit b s.offLine = (pushBit b s).offLine := by
  simp only [pushBit, apply_ite State.offLine, ← byteReceived_offLine]
  rfl

theorem symbolBit_offLine (b : Bool) (s : State) : symbolBit b s.offLine = (symbolBit b s).offLine := by
  simp only [symbolBit, apply_ite State.offLine, pushBit_offLine]
  rfl

/-- No handler reads the line. -/
theorem handle_offLine (y : Symbol) (s : State) : handle y s.offLine = (handle y s).offLine :=
  match y with
  | .start => congrArg State.openFrame (commit_offLine s)
  | .one => symbolBit_offLine true s
  | .zero => symbolBit_offLine false s
  | .noise => commit_offLine s

theorem edgeState_offLine (t : Stamp) (s : State) : edgeState t s.offLine = (edgeState t s).offLine :=
  congrArg State.silent (handle_offLine _ (s.setLastEdge t))

theorem edgesAt_offLine (ts : List Stamp) (s : State) : edgesAt ts s.offLine = (edgesAt ts s).offLine :=
  List.foldl_hom State.offLine fun s t => edgeState_offLine t s

theorem edgesAt_append (ts us : List Stamp) (s : State) : edgesAt (ts ++ us) s = edgesAt us (edgesAt ts s) :=
  List.foldl_append

/-- The falling edges of one segment that begins at `u`: one, at `u`, when it takes the pin from HIGH to LOW. -/
def segmentEdges (pin : Level) (u : Stamp) (g : Segment) : List Stamp :=
  if pin = .high ∧ g.level = .low then [u] else []

theorem fallingEdges_cons (c : Cfg) (pin : Level) (u : Stamp) (g : Segment) (rest : List Segment) :
    fallingEdges c pin u (g :: rest) =
      segmentEdges pin u g ++ fallingEdges c g.level (c.stamp (u + BitVec.ofNat 64 g.duration)) rest := by
  rw [fallingEdges, segmentEdges]
  split <;> rfl

/-- One segment: the rest of the transmission is left to send, the pin is at the segment's level, and the receiver has seen the segment's
edges and nothing else. -/
theorem sendStep_segment {s : State} {u : Stamp} {g : Segment} {rest : List Segment} (htx : s.tx = some ⟨u, g :: rest⟩) :
    ∃ t, sendStep s = .next t ∧ t.tx = some ⟨s.cfg.stamp (u + BitVec.ofNat 64 g.duration), rest⟩ ∧ t.txPin = g.level ∧
      t.cfg = s.cfg ∧ t.offLine = (edgesAt (segmentEdges s.txPin u g) s).offLine := by
  rw [sendStep, htx, segmentEdges]
  dsimp only
  split
  next =>
    obtain ⟨-, ⟨hcfg, -, htx', hpin, -⟩, -⟩ :=
      edgeState_sameBesideProducer u ((driveSegment u g rest s).setNowBus u)
    exact ⟨_, rfl, htx', hpin, hcfg, (edgeState_offLine u _).symm.trans (edgeState_offLine u s)⟩
  next => exact ⟨driveSegment u g rest s, rfl, rfl, rfl, rfl, rfl⟩

/-- A transmission, segment by segment: apart from the line, the receiver has seen its falling edges and nothing else. -/
theorem sendSteps_offLine (segs : List Segment) : ∀ {s : State} {u : Stamp}, s.tx = some ⟨u, segs⟩ →
    ∃ t, sendSteps segs.length s = .next t ∧ t.offLine = (edgesAt (fallingEdges s.cfg s.txPin u segs) s).offLine := by
  induction segs with
  | nil => exact fun {s} _ _ => ⟨s, rfl, rfl⟩
  | cons g rest ih =>
    intro s u htx
    obtain ⟨m, hstep, hmtx, hmpin, hmcfg, hmedges⟩ := sendStep_segment htx
    obtain ⟨t, hsteps, htedges⟩ := ih hmtx
    refine ⟨t, by rw [List.length_cons, sendSteps, hstep]; exact hsteps, ?_⟩
    rw [htedges, hmpin, hmcfg, fallingEdges_cons, edgesAt_append, ← edgesAt_offLine, hmedges, edgesAt_offLine]

/-! ## The request at the head of the schedule (R81) -/

theorem step_of_schedule_cons {s : State} {r : Request} {rest : List Request} (hwf : s.cfg.wf = true)
    (hsched : s.schedule = r :: rest) : step s = perform r (s.setSchedule rest) := by
  rw [step, if_pos hwf, runSchedule, hsched]

theorem runWord_of_decode_ok {p : Port} {w : BitVec 65} {i : Instr} {s : State} (now : Stamp)
    (hdecode : decode s.cfg.tw p w = .ok i) (hrst : resetDuringGet i s = false) :
    runWord p w now s = exec i (s.setNowBus (busTime s.cfg.tw p w now)) := by
  simp only [runWord, hdecode, hrst, Bool.false_eq_true, if_false]

/-- Only an `RST` under a `GET` is turned away (93_implementation_defined U24). -/
theorem resetDuringGet_eq_false {i : Instr} {s : State} (h : s.getCall = none ∨ ∀ a, i ≠ .rst a) :
    resetDuringGet i s = false := by
  unfold resetDuringGet
  split
  next a =>
    obtain hnone | hne := h
    · rw [hnone, Option.isSome_none]
    · exact absurd rfl (hne a)
  next => rfl

theorem callGet_of_none (n : Byte) {s : State} (h : s.getCall = none) :
    callGet n s = .next ((s.setGetResult none).continueGet (freshGet n)) := by
  rw [callGet, h]

end Sys2Proof.Machine

namespace Sys2Proof

open Machine

/-! ## The obligations -/

/-- Settles O21: a byte's bits fill all eight places of the accumulator, the last to travel newest. -/
theorem byteBitsShiftBack : Obligations.ByteBitsShiftBack := by
  intro o v acc
  refine BitVec.eq_of_getLsbD_eq fun i hi => ?_
  have hage : bitSlot o i < 8 := bitSlot_lt o hi
  have hbit := foldl_shiftIn_getLsbD o acc (byteBits o v) (bitSlot o i) hage (by rwa [byteBits_length])
  rw [byteBits_reverse_getElem? o v hage, bitSlot_bitSlot o hi] at hbit
  exact Option.some.inj hbit

/-- Settles O36: after an `ACQ` that answers a record, `read_index` and `drop_ack` hold what a second one writes. -/
theorem secondAcqRepeats : Obligations.SecondAcqRepeats := by
  intro a b s t hinv h
  by_cases hbuf : s.framesBuffered = 0
  · cases (exec_acq_of_empty a hbuf).symm.trans h
    exact exec_acq_of_empty b hbuf
  · cases (exec_acq_of_buffered a hbuf).symm.trans h
    have hbuf' : ((s.setReader s.tail s.dropSkip).respond .ok (s.ringByte s.tail)).framesBuffered ≠ 0 := hbuf
    rw [exec_acq_of_buffered b hbuf', respond_tail, setReader_tail hinv.cfgWf]
    rfl

/-- Settles O42: a step runs at most one operation, and no operation breaks the form. -/
theorem stepKeepsRingCanonical : Obligations.StepKeepsRingCanonical := by
  intro s t hring h
  obtain ⟨hwf, -⟩ := step_cases h
  have hcap : 0 < s.cfg.cap := Nat.lt_of_lt_of_le (by decide) (Cfg.cap_bounds hwf).1
  have hs : s.canonicalUnder s.cfg := ⟨rfl, hring⟩
  have ht : t.canonicalUnder s.cfg := by
    obtain hsame | ⟨i, u, v, hbefore, hexec, hafter⟩ := step_runsOneOperation h
    · exact canonicalUnder_of_receiver_eq hsame hs
    · have hu := canonicalUnder_of_receiver_eq hbefore hs
      exact canonicalUnder_of_receiver_eq hafter (exec_keeps_canonicalUnder hcap hu hexec)
  obtain ⟨hcfg, hwf'⟩ := ht
  rwa [hcfg]

/-- Settles O43: a step runs at most one operation, and no operation writes `Cfg`. -/
theorem configurationImmutable : Obligations.ConfigurationImmutable := by
  intro s t h
  obtain hsame | ⟨i, u, v, hbefore, hexec, hafter⟩ := step_runsOneOperation h
  · exact cfg_of_receiver_eq hsame
  · calc t.cfg = v.cfg := cfg_of_receiver_eq hafter
      _ = u.cfg := exec_cfg hexec
      _ = s.cfg := cfg_of_receiver_eq hbefore

/-- Settles O45: none of the updates that these operations are made of writes a register of another owner. -/
theorem producerLeavesConsumerAlone : Obligations.ProducerLeavesConsumerAlone := by
  intro i s t hi h
  have hprod := closedUnderProducer_sameBesideProducer s
  have hs := sameBesideProducer_refl s
  cases i with
  | edge u => cases h; exact hprod.edgeState u hs
  | symStart => cases h; exact hprod.silent (hprod.handle .start hs)
  | symOne => cases h; exact hprod.silent (hprod.handle .one hs)
  | symZero => cases h; exact hprod.silent (hprod.handle .zero hs)
  | symNoise => cases h; exact hprod.silent (hprod.handle .noise hs)
  | tmo a => exact hprod.tmo a hs h
  | nop _ | stat _ | acq _ | rdb _ | rel _ | rst _ => simp [Instr.port] at hi

/-- Settles O58, by induction on the segments: each is its edges, and no edge reads the line. -/
theorem sendIsItsEdges : Obligations.SendIsItsEdges :=
  fun _ _ segs htx => sendSteps_offLine segs htx

/-- Settles O4: the head of the schedule is performed, and performing a request is by definition the procedure it names. -/
theorem stepRunsDecodedInstruction : Obligations.StepRunsDecodedInstruction := by
  intro s r rest hwf hsched u
  have hstep : step s = perform r u := step_of_schedule_cons hwf hsched
  refine ⟨?word, ?get, ?getStep, ?send, ?sendStep, ?forceSequence⟩
  case word =>
    rintro p w now i rfl hdecode hrst
    rw [hstep]
    exact runWord_of_decode_ok (s := u) now hdecode (resetDuringGet_eq_false hrst)
  case get =>
    rintro n rfl
    exact ⟨hstep, fun hnone => hstep.trans (callGet_of_none n (s := u) hnone)⟩
  case getStep => rintro rfl; exact hstep
  case send => rintro payload t0 rfl; exact hstep
  case sendStep => rintro rfl; exact hstep
  case forceSequence => rintro v rfl; exact hstep

end Sys2Proof
end

section
/-! Proofs for spec/30_encoding.md: port words to operations and back (R113 to R116, R123), the reserved command opcodes (R119), the order of
the bits of a byte (R125), and the nominal periods (R102, R111). -/

namespace Sys2Proof

open Sys2Proof.Laws

/-! ## The port of a word chooses its decoder (R100) -/

theorem decode_sym (tw : TimeWidth) {w : BitVec 65} (hfit : w.toNat < 2 ^ Port.sym.width tw) :
    decode tw .sym w = .ok (decodeSym (w.extractLsb' 0 2)) :=
  if_pos hfit

theorem decode_cmd (tw : TimeWidth) {w : BitVec 65} (hfit : w.toNat < 2 ^ Port.cmd.width tw) :
    decode tw .cmd w = decodeCmd (w.extractLsb' 8 4) (w.extractLsb' 0 8) :=
  if_pos hfit

theorem decode_evt (tw : TimeWidth) {w : BitVec 65} (hfit : w.toNat < 2 ^ Port.evt.width tw) :
    decode tw .evt w = if evtStrobe tw w then .ok (.edge (evtStamp tw w)) else .error .noStrobe :=
  if_pos hfit

/-- Only a word that fits its format decodes (R123). -/
theorem decode_eq_ok_fits {tw : TimeWidth} {p : Port} {w : BitVec 65} {i : Instr} (h : decode tw p w = .ok i) :
    w.toNat < 2 ^ p.width tw := by
  unfold decode at h
  split at h
  · assumption
  · cases h

/-! ## Symbol codes (R113) -/

theorem decodeSym_port (v : BitVec 2) : (decodeSym v).port = .sym := by revert v; decide

theorem decodeSym_wf (tw : TimeWidth) (v : BitVec 2) : (decodeSym v).wf tw = true := by cases tw <;> revert v <;> decide

theorem encode_decodeSym (tw : TimeWidth) (v : BitVec 2) : encode tw (decodeSym v) = v.setWidth 65 := by
  cases tw <;> revert v <;> decide

/-- A word of 2 bits is its symbol code. -/
theorem symWord_code {w : BitVec 65} (hfit : w.toNat < 2 ^ 2) : (w.extractLsb' 0 2).setWidth 65 = w := by
  refine BitVec.eq_of_toNat_eq ?_
  rw [BitVec.toNat_setWidth, BitVec.extractLsb'_toNat, Nat.shiftRight_zero]
  omega

/-! ## Command words (R115, R116, R119) -/

theorem cmdWord_toNat (op : BitVec 4) (arg : Byte) : (cmdWord op arg).toNat = 2 ^ 8 * op.toNat + arg.toNat := by
  rw [cmdWord, BitVec.toNat_setWidth, BitVec.toNat_append, ← Nat.shiftLeft_add_eq_or_of_lt arg.isLt, Nat.shiftLeft_eq]
  omega

theorem cmdWord_opcode (op : BitVec 4) (arg : Byte) : (cmdWord op arg).extractLsb' 8 4 = op := by
  refine BitVec.eq_of_toNat_eq ?_
  rw [BitVec.extractLsb'_toNat, cmdWord_toNat, Nat.shiftRight_eq_div_pow]
  omega

theorem cmdWord_arg (op : BitVec 4) (arg : Byte) : (cmdWord op arg).extractLsb' 0 8 = arg := by
  refine BitVec.eq_of_toNat_eq ?_
  rw [BitVec.extractLsb'_toNat, cmdWord_toNat, Nat.shiftRight_zero]
  omega

/-- A word of 12 bits is its two fields. -/
theorem cmdWord_fields {w : BitVec 65} (hfit : w.toNat < 2 ^ 12) :
    cmdWord (w.extractLsb' 8 4) (w.extractLsb' 0 8) = w := by
  refine BitVec.eq_of_toNat_eq ?_
  rw [cmdWord_toNat, BitVec.extractLsb'_toNat, BitVec.extractLsb'_toNat, Nat.shiftRight_eq_div_pow, Nat.shiftRight_zero]
  omega

/-- A command word is decoded by its fields, at either timestamp width. -/
theorem decode_cmdWord (tw : TimeWidth) (op : BitVec 4) (arg : Byte) :
    decode tw .cmd (cmdWord op arg) = decodeCmd op arg := by
  rw [decode_cmd tw (cmdWord_toNat_lt op arg), cmdWord_opcode, cmdWord_arg]

theorem decodeCmd_reserved {op : BitVec 4} (hlo : 0x6 ≤ op.toNat) (hhi : op.toNat ≤ 0xE) (arg : Byte) :
    decodeCmd op arg = .error (.reserved op) := by
  have hne (n : BitVec 4) (hn : n.toNat < 0x6 ∨ 0xE < n.toNat) : op ≠ n := by rintro rfl; omega
  simp [decodeCmd, hne]

/-- What a command decodes to is of the command port, well formed, and has the opcode and the argument it was read from. -/
theorem decodeCmd_eq_ok {op : BitVec 4} {arg : Byte} {i : Instr} (h : decodeCmd op arg = .ok i) (tw : TimeWidth) :
    i.port = .cmd ∧ i.wf tw = true ∧ encode tw i = cmdWord op arg := by
  unfold decodeCmd at h
  split_ifs at h with hop hop hop hop hop hop hop <;> cases h <;> exact ⟨rfl, rfl, by rw [hop]; rfl⟩

/-! ## Edge words (R114) -/

theorem encode_edge_toNat {tw : TimeWidth} {t : Stamp} (hwf : t.toNat < 2 ^ tw.bits) :
    (encode tw (.edge t)).toNat = 2 ^ tw.bits + t.toNat := by
  have hbits : 2 ^ tw.bits + t.toNat < 2 ^ 65 := by
    cases tw <;> simp only [TimeWidth.bits] at * <;> omega
  exact Nat.mod_eq_of_lt hbits

theorem evtStamp_toNat (tw : TimeWidth) (w : BitVec 65) : (evtStamp tw w).toNat = w.toNat % 2 ^ tw.bits := by
  have hbits : w.toNat % 2 ^ tw.bits < 2 ^ 64 := by
    cases tw <;> simp only [TimeWidth.bits] <;> omega
  exact Nat.mod_eq_of_lt hbits

theorem evtStamp_lt (tw : TimeWidth) (w : BitVec 65) : (evtStamp tw w).toNat < 2 ^ tw.bits := by
  rw [evtStamp_toNat]
  exact Nat.mod_lt _ (Nat.two_pow_pos _)

/-- The strobe is the top bit of an edge word. -/
theorem evtStrobe_iff {tw : TimeWidth} {w : BitVec 65} (hfit : w.toNat < 2 ^ Port.evt.width tw) :
    evtStrobe tw w = true ↔ 2 ^ tw.bits ≤ w.toNat := by
  have hstrobe : evtStrobe tw w = decide (w.toNat / 2 ^ tw.bits % 2 = 1) := Nat.testBit_eq_decide_div_mod_eq
  rw [hstrobe, decide_eq_true_iff]
  cases tw <;> simp only [Port.width, TimeWidth.bits] at * <;> omega

/-- An edge word is its strobe and its timestamp. -/
theorem encode_edge_evtStamp {tw : TimeWidth} {w : BitVec 65} (hfit : w.toNat < 2 ^ Port.evt.width tw)
    (hstrobe : evtStrobe tw w = true) : encode tw (.edge (evtStamp tw w)) = w := by
  have hlow := (evtStrobe_iff hfit).mp hstrobe
  refine BitVec.eq_of_toNat_eq ?_
  rw [encode_edge_toNat (evtStamp_lt tw w), evtStamp_toNat]
  cases tw <;> simp only [Port.width, TimeWidth.bits] at * <;> omega

theorem decode_encode_edge {tw : TimeWidth} {t : Stamp} (hwf : t.toNat < 2 ^ tw.bits) :
    decode tw .evt (encode tw (.edge t)) = .ok (.edge t) := by
  have hfit := EncodingFits.edge t tw (decide_eq_true hwf)
  have hword := encode_edge_toNat hwf
  have hstrobe : evtStrobe tw (encode tw (.edge t)) = true := (evtStrobe_iff hfit).mpr (by omega)
  have hstamp : evtStamp tw (encode tw (.edge t)) = t :=
    BitVec.eq_of_toNat_eq (by rw [evtStamp_toNat, hword, Nat.add_mod_left, Nat.mod_eq_of_lt hwf])
  rw [decode_evt tw hfit, if_pos hstrobe, hstamp]

/-! ## A nominal period lies between its own thresholds (R102) -/

theorem Cfg.startPeriod_mem (c : Cfg) : c.startLo ≤ c.startPeriod ∧ c.startPeriod ≤ c.startHi :=
  ⟨Nat.sub_le _ _, Nat.le_add_right _ _⟩

theorem Cfg.onePeriod_mem (c : Cfg) : c.oneLo ≤ c.onePeriod ∧ c.onePeriod ≤ c.oneHi :=
  ⟨Nat.sub_le _ _, Nat.le_add_right _ _⟩

theorem Cfg.zeroPeriod_mem (c : Cfg) : c.zeroLo ≤ c.zeroPeriod ∧ c.zeroPeriod ≤ c.zeroHi :=
  ⟨Nat.sub_le _ _, Nat.le_add_right _ _⟩

namespace Machine

/-! ## A reserved command (R119) -/

theorem runWord_of_decode_reserved {p : Port} {w : BitVec 65} {op : BitVec 4} {s : State} (now : Stamp)
    (hdecode : decode s.cfg.tw p w = .error (.reserved op)) :
    runWord p w now s = .next ((s.setNowBus (busTime s.cfg.tw p w now)).respond .invalid 0) := by
  rw [runWord, hdecode, execReserved]

/-! ## The bits of a byte, put together one by one (R125) -/

/-- The bits of a word of any width, from bit 0 up. -/
def bitsFromLow {n : Nat} (x : BitVec n) : List Bool := (List.range n).map fun i => x.getLsbD i

theorem byteBits_lsbFirst (v : Byte) : byteBits .lsbFirst v = bitsFromLow v := rfl

theorem byteBits_msbFirst (v : Byte) : byteBits .msbFirst v = (bitsFromLow v).reverse := rfl

theorem bitsFromLow_ofBool (b : Bool) : bitsFromLow (BitVec.ofBool b) = [b] := by
  simp [bitsFromLow]

/-- A bit appended at the low end comes first, and the others follow in the order they had. -/
theorem bitsFromLow_append_ofBool {n : Nat} (x : BitVec n) (b : Bool) :
    bitsFromLow (x ++ BitVec.ofBool b) = b :: bitsFromLow x := by
  rw [bitsFromLow, List.range_succ_eq_map, List.map_cons, List.map_map]
  congr 1
  · rw [BitVec.getLsbD_append]
    simp
  · refine List.map_congr_left fun i _ => ?_
    rw [Function.comp_apply, BitVec.getLsbD_append, if_neg (by omega), Nat.succ_sub_one]

/-! ## What a period in a band is classified as (40_pulse_discriminator R143) -/

theorem inBand_of_closed {c : Cfg} (hclosed : c.bandClosed = true) {lo hi p : Nat} (hlo : lo ≤ p) (hhi : p ≤ hi) :
    inBand c lo hi p = true := by
  rw [inBand_iff, if_pos hclosed]
  exact ⟨hlo, hhi⟩

/-- A period strictly between the ends is inside whatever `BAND_CLOSED` is. -/
theorem inBand_of_strict (c : Cfg) {lo hi p : Nat} (hlo : lo < p) (hhi : p < hi) : inBand c lo hi p = true := by
  rw [inBand_iff]
  split
  · exact ⟨hlo.le, hhi.le⟩
  · exact ⟨hlo, hhi⟩

theorem not_inBand_of_lt (c : Cfg) {lo p : Nat} (hi : Nat) (h : p < lo) : ¬inBand c lo hi p = true := by
  rw [inBand_iff]
  split <;> omega

theorem classify_of_inStart {c : Cfg} {p : Nat} (hstart : inBand c c.startLo c.startHi p = true) :
    classify c p = .start :=
  if_pos hstart

theorem classify_of_inOne {c : Cfg} {p : Nat} (hstart : ¬inBand c c.startLo c.startHi p = true)
    (hone : inBand c c.oneLo c.oneHi p = true) : classify c p = .one := by
  rw [classify, if_neg hstart, if_pos hone]

theorem classify_of_inZero {c : Cfg} {p : Nat} (hstart : ¬inBand c c.startLo c.startHi p = true)
    (hone : ¬inBand c c.oneLo c.oneHi p = true) (hzero : inBand c c.zeroLo c.zeroHi p = true) : classify c p = .zero := by
  rw [classify, if_neg hstart, if_neg hone, if_pos hzero]

theorem mem_noiseBurst_of_mem_burstPeriods {c : Cfg} {p : Nat} (h : p ∈ burstPeriods c) : p ∈ c.noiseBurst := by
  unfold burstPeriods at h
  split at h
  · exact h
  · cases h

end Machine

open Machine

/-! ## The obligations -/

/-- Settles O1, port by port: the fields of a word that was put together are the parts it was put together from. -/
theorem decodeReadsBackEncode : Obligations.DecodeReadsBackEncode := by
  intro tw i hwf
  cases i with
  | edge t => exact decode_encode_edge (of_decide_eq_true hwf)
  | symStart => exact decode_sym tw (EncodingFits.symStart tw hwf)
  | symOne => exact decode_sym tw (EncodingFits.symOne tw hwf)
  | symZero => exact decode_sym tw (EncodingFits.symZero tw hwf)
  | symNoise => exact decode_sym tw (EncodingFits.symNoise tw hwf)
  | nop a => exact decode_cmdWord tw 0x0 a
  | stat a => exact decode_cmdWord tw 0x1 a
  | acq a => exact decode_cmdWord tw 0x2 a
  | rdb k => exact decode_cmdWord tw 0x3 k
  | rel a => exact decode_cmdWord tw 0x4 a
  | tmo a => exact decode_cmdWord tw 0x5 a
  | rst a => exact decode_cmdWord tw 0xF a

/-- Settles O2, port by port: a word that fits its format is its fields put together again. -/
theorem encodeReadsBackDecode : Obligations.EncodeReadsBackDecode := by
  intro tw p w i h
  have hfit := decode_eq_ok_fits h
  cases p with
  | sym =>
    rw [decode_sym tw hfit] at h
    cases h
    exact ⟨decodeSym_port _, decodeSym_wf tw _, (encode_decodeSym tw _).trans (symWord_code hfit)⟩
  | cmd =>
    rw [decode_cmd tw hfit] at h
    obtain ⟨hport, hwf, hencode⟩ := decodeCmd_eq_ok h tw
    exact ⟨hport, hwf, hencode.trans (cmdWord_fields hfit)⟩
  | evt =>
    rw [decode_evt tw hfit] at h
    split at h
    next hstrobe =>
      cases h
      exact ⟨rfl, decide_eq_true (evtStamp_lt tw w), encode_edge_evtStamp hfit hstrobe⟩
    next => cases h

/-- Settles O3: each word but the last is the word of its operation, and is read back (O1); the last has a reserved opcode. -/
theorem specWordsDecode : Obligations.SpecWordsDecode :=
  ⟨decodeReadsBackEncode .w32 (.edge 7000) (by decide), decodeReadsBackEncode .w64 (.edge 0x6A) (by decide),
    decodeReadsBackEncode .w32 .symStart rfl, decodeReadsBackEncode .w32 .symOne rfl,
    decodeReadsBackEncode .w32 .symZero rfl, decodeReadsBackEncode .w32 .symNoise rfl,
    decodeReadsBackEncode .w32 (.nop 0) rfl, decodeReadsBackEncode .w32 (.stat 0xAB) rfl,
    decodeReadsBackEncode .w32 (.acq 0) rfl, decodeReadsBackEncode .w32 (.rdb 4) rfl,
    decodeReadsBackEncode .w32 (.rel 0) rfl, decodeReadsBackEncode .w32 (.tmo 0) rfl,
    decodeReadsBackEncode .w32 (.rst 0) rfl,
    (decode_cmdWord .w32 0x7 0xFF).trans (decodeCmd_reserved (by decide) (by decide) 0xFF)⟩

/-- Settles O5: the word decodes to no operation, and the answer is the only thing written beside the model's own fields. -/
theorem reservedOpcodeAnswersInvalid : Obligations.ReservedOpcodeAnswersInvalid := by
  intro s op arg now rest hwf hlo hhi hsched
  have hdecode : decode s.cfg.tw .cmd (cmdWord op arg) = .error (.reserved op) :=
    (decode_cmdWord _ op arg).trans (decodeCmd_reserved hlo hhi arg)
  rw [step_of_schedule_cons hwf hsched]
  exact runWord_of_decode_reserved (s := s.setSchedule rest) now hdecode

/-- Settles O12: each nominal period is inside its own band, and the bands tested before that one lie wholly above it. -/
theorem nominalPeriodsReadBack : Obligations.NominalPeriodsReadBack := by
  intro c hwf
  refine ⟨fun p hp => Cfg.burst_noise hwf (mem_noiseBurst_of_mem_burstPeriods hp), fun hzero_one hone_start hends => ?_⟩
  obtain ⟨hstartLo, hstartHi⟩ := c.startPeriod_mem
  obtain ⟨honeLo, honeHi⟩ := c.onePeriod_mem
  obtain ⟨hzeroLo, hzeroHi⟩ := c.zeroPeriod_mem
  have hinside : inBand c c.startLo c.startHi c.startPeriod = true ∧ inBand c c.oneLo c.oneHi c.onePeriod = true ∧
      inBand c c.zeroLo c.zeroHi c.zeroPeriod = true := by
    obtain hclosed | ⟨⟨hstart, hstart'⟩, ⟨hone, hone'⟩, ⟨hzero, hzero'⟩⟩ := hends
    · exact ⟨inBand_of_closed hclosed hstartLo hstartHi, inBand_of_closed hclosed honeLo honeHi,
        inBand_of_closed hclosed hzeroLo hzeroHi⟩
    · exact ⟨inBand_of_strict c hstart hstart', inBand_of_strict c hone hone', inBand_of_strict c hzero hzero'⟩
  obtain ⟨hstart, hone, hzero⟩ := hinside
  have hone_below : c.onePeriod < c.startLo := honeHi.trans_lt hone_start
  have hzero_below : c.zeroPeriod < c.oneLo := hzeroHi.trans_lt hzero_one
  have hzero_below' : c.zeroPeriod < c.startLo := hzero_below.trans (honeLo.trans_lt hone_below)
  refine ⟨classify_of_inStart hstart, fun b => ?_⟩
  cases b with
  | true => exact classify_of_inOne (not_inBand_of_lt c _ hone_below) hone
  | false => exact classify_of_inZero (not_inBand_of_lt c _ hzero_below') (not_inBand_of_lt c _ hzero_below) hzero

/-- Settles O20: the eight bits are the travelling bits of the byte they make, and those shift back into it (O21). -/
theorem eightBitsMakeByte : Obligations.EightBitsMakeByte := by
  intro b0 b1 b2 b3 b4 b5 b6 b7 acc one
  have hbits (a0 a1 a2 a3 a4 a5 a6 a7 : Bool) :
      bitsFromLow (one a7 ++ one a6 ++ one a5 ++ one a4 ++ one a3 ++ one a2 ++ one a1 ++ one a0) =
        [a0, a1, a2, a3, a4, a5, a6, a7] := by
    simp only [one, bitsFromLow_append_ofBool, bitsFromLow_ofBool]
  constructor
  · have hback := byteBitsShiftBack .msbFirst
      (one b0 ++ one b1 ++ one b2 ++ one b3 ++ one b4 ++ one b5 ++ one b6 ++ one b7) acc
    rwa [byteBits_msbFirst, hbits] at hback
  · have hback := byteBitsShiftBack .lsbFirst
      (one b7 ++ one b6 ++ one b5 ++ one b4 ++ one b3 ++ one b2 ++ one b1 ++ one b0) acc
    rwa [byteBits_lsbFirst, hbits] at hback

end Sys2Proof
end

section
/-! Proofs for spec/40_pulse_discriminator.md: the thresholds (R142) and the order of the bands (R143). -/

namespace Sys2Proof

/-! ## A threshold as a number over the integers (R142) -/

theorem Cfg.scale_cast (c : Cfg) (p : Nat) : (c.scale p : Int) = p * c.calErrPct / 100 := by
  simp only [Cfg.scale, Int.natCast_ediv, Nat.cast_mul, Nat.cast_ofNat]

/-- The subtraction of a lower threshold is the one over the integers only where it does not underflow (R18). -/
theorem Cfg.lower_threshold_cast {c : Cfg} {p : Nat} (h : c.tolNeg + c.scale p ≤ p) :
    ((p - (c.tolNeg + c.scale p) : Nat) : Int) = p - (c.tolNeg + p * c.calErrPct / 100) := by
  rw [Nat.cast_sub h, Nat.cast_add, Cfg.scale_cast]

theorem Cfg.upper_threshold_cast (c : Cfg) (tol p : Nat) :
    ((p + (tol + c.scale p) : Nat) : Int) = p + (tol + p * c.calErrPct / 100) := by
  rw [Nat.cast_add, Nat.cast_add, Cfg.scale_cast]

namespace Machine

/-! ## The four regions of `CLASSIFY` (R143) -/

theorem classify_of_inNone {c : Cfg} {p : Nat} (hstart : ¬inBand c c.startLo c.startHi p = true)
    (hone : ¬inBand c c.oneLo c.oneHi p = true) (hzero : ¬inBand c c.zeroLo c.zeroHi p = true) : classify c p = .noise := by
  rw [classify, if_neg hstart, if_neg hone, if_neg hzero]

/-- Each symbol's region, by the first band that holds the period: the regions cover every period, and their symbols differ. -/
theorem classify_eq_iff (c : Cfg) (p : Nat) :
    (classify c p = .start ↔ inBand c c.startLo c.startHi p = true) ∧
    (classify c p = .one ↔ ¬inBand c c.startLo c.startHi p = true ∧ inBand c c.oneLo c.oneHi p = true) ∧
    (classify c p = .zero ↔ ¬inBand c c.startLo c.startHi p = true ∧ ¬inBand c c.oneLo c.oneHi p = true ∧
      inBand c c.zeroLo c.zeroHi p = true) ∧
    (classify c p = .noise ↔ ¬inBand c c.startLo c.startHi p = true ∧ ¬inBand c c.oneLo c.oneHi p = true ∧
      ¬inBand c c.zeroLo c.zeroHi p = true) := by
  by_cases hstart : inBand c c.startLo c.startHi p = true
  · simp [classify_of_inStart hstart, hstart]
  by_cases hone : inBand c c.oneLo c.oneHi p = true
  · simp [classify_of_inOne hstart hone, hstart, hone]
  by_cases hzero : inBand c c.zeroLo c.zeroHi p = true
  · simp [classify_of_inZero hstart hone hzero, hstart, hone, hzero]
  · simp [classify_of_inNone hstart hone hzero, hstart, hone, hzero]

end Machine

/-! ## The obligations -/

/-- Settles O9: no lower threshold of a well-formed configuration underflows, so each formula means the same over the integers. -/
theorem thresholdsFollowFormulas : Obligations.ThresholdsFollowFormulas := by
  intro c hwf
  obtain ⟨-, hunder, hfit, -⟩ := Cfg.wf_parts hwf
  have hlow : ∀ p ∈ [c.startPeriod, c.onePeriod, c.zeroPeriod], c.tolNeg + c.scale p ≤ p := c.noUnderflow_iff.mp hunder
  exact ⟨Cfg.lower_threshold_cast (hlow c.startPeriod (by simp)), c.upper_threshold_cast c.startMaxError c.startPeriod,
    Cfg.lower_threshold_cast (hlow c.onePeriod (by simp)), c.upper_threshold_cast c.tolPos c.onePeriod,
    Cfg.lower_threshold_cast (hlow c.zeroPeriod (by simp)), c.upper_threshold_cast c.tolPos c.zeroPeriod,
    c.thresholdsFit_iff.mp hfit⟩

/-- Settles O11: the regions of `CLASSIFY`, with "inside a band" read by `BAND_CLOSED`. -/
theorem classifyTestsBandsInOrder : Obligations.ClassifyTestsBandsInOrder := by
  intro c p within
  have hregions := Machine.classify_eq_iff c p
  simp only [Machine.inBand_iff] at hregions
  exact hregions

end Sys2Proof
end

section
/-! Proofs for spec/41_transmitter_encoder.md: the falling edges of a transmission (R161, R162, R168 to R170), the sequence counter (R166), the bytes
that are sent (R164, R165, R167) and the payload that is refused (R171). -/

namespace Sys2Proof

/-! ## Times modulo `2^TW` (R170) -/

/-- A time already reduced modulo `2^TW` may be added to before it is reduced again, since `TW` is no wider than the container (log 9). -/
theorem Cfg.stamp_stamp_add (c : Cfg) (t d : Stamp) : c.stamp (c.stamp t + d) = c.stamp (t + d) := by
  refine congrArg (BitVec.ofNat 64) ?_
  rw [Cfg.stamp, BitVec.toNat_add, BitVec.toNat_add, BitVec.toNat_ofNat]
  cases c.tw <;> simp only [TimeWidth.bits] <;> omega

/-- Two durations one after the other pass as their sum. -/
theorem Cfg.stamp_add_durations (c : Cfg) (t : Stamp) (m n : Nat) :
    c.stamp (c.stamp (t + BitVec.ofNat 64 m) + BitVec.ofNat 64 n) = c.stamp (t + BitVec.ofNat 64 (m + n)) := by
  rw [Cfg.stamp_stamp_add, BitVec.add_assoc, ← BitVec.ofNat_add]

/-! ## The bytes between length and payload (30_encoding R105) -/

theorem Cfg.headerLen_le_two (c : Cfg) : c.headerLen ≤ 2 :=
  Nat.add_le_add (Bool.toNat_le c.ecEn) (Bool.toNat_le c.sqEn)

namespace Machine

/-! ## The falling edges of pulses (R161, R168 to R170) -/

/-- One pulse makes the pin fall when it begins with the pin HIGH; it leaves the pin HIGH, one period later. -/
theorem fallingEdges_pulseSegments_append (c : Cfg) (pin : Level) (t : Stamp) (p : Nat) (segs : List Segment) :
    fallingEdges c pin t (pulseSegments c p ++ segs) =
      segmentEdges pin t forcedLow ++ fallingEdges c .high (c.stamp (t + BitVec.ofNat 64 p)) segs := by
  have hperiod : p - c.highDuration + (p - (p - c.highDuration)) = p := by omega
  simp only [pulseSegments, List.cons_append, List.nil_append, fallingEdges_cons, Cfg.stamp_add_durations, hperiod]
  rfl

/-- Pulses put their periods before those of what follows. -/
theorem fallingEdges_pulses_append {c : Cfg} {segs : List Segment} {qs : List Nat}
    (hsegs : ∀ t, fallingEdges c .high t segs = edgeTimes c t qs) (ps : List Nat) :
    ∀ t, fallingEdges c .high t (ps.flatMap (pulseSegments c) ++ segs) = edgeTimes c t (ps ++ qs) := by
  induction ps with
  | nil => exact hsegs
  | cons p ps ih =>
    intro t
    rw [List.flatMap_cons, List.append_assoc, fallingEdges_pulseSegments_append, ih]
    rfl

/-- A forced LOW is one fall. -/
theorem fallingEdges_forcedLow (c : Cfg) (t : Stamp) : fallingEdges c .high t [forcedLow] = edgeTimes c t [] := rfl

/-- The end of a transmission: the forced LOW is the first edge of the burst, so the burst's first pulse, which begins with the line LOW, makes
none (R168, R169; log 15). -/
theorem fallingEdges_ending (c : Cfg) (burst : List Nat) (t : Stamp) :
    fallingEdges c .high t
        ([forcedLow] ++ if burst = [] then [] else burst.flatMap (pulseSegments c) ++ [forcedLow]) =
      edgeTimes c t burst := by
  cases burst with
  | nil => exact fallingEdges_forcedLow c t
  | cons p ps =>
    have hrest := fallingEdges_pulses_append (fallingEdges_forcedLow c) ps
    rw [List.append_nil] at hrest
    rw [if_neg (List.cons_ne_nil p ps), List.flatMap_cons, List.append_assoc, List.singleton_append, fallingEdges_cons]
    rw [fallingEdges_pulseSegments_append, forcedLow, Cfg.stamp_add_durations, Nat.zero_add]
    exact congrArg (t :: ·) (hrest _)

theorem fallingEdges_sendSegments (chk : Byte → List Byte → Byte) (c : Cfg) (q : Byte) (payload : List Byte) (t : Stamp) :
    fallingEdges c .high t (sendSegments chk c q payload) = edgeTimes c t (sendPeriods chk c q payload) := by
  rw [sendSegments, List.append_assoc]
  exact fallingEdges_pulses_append (fallingEdges_ending c (burstPeriods c)) _ t

/-! ## The sequence counter under a transmission (R166) -/

/-- The receiver's edges leave the transmitter's counter alone (20_memory R80). -/
theorem edgesAt_txSequence (ts : List Stamp) : ∀ s : State, (edgesAt ts s).txSequence = s.txSequence := by
  induction ts with
  | nil => exact fun _ => rfl
  | cons u ts ih =>
    intro s
    obtain ⟨-, ⟨-, hseq, -⟩, -⟩ := edgeState_sameBesideProducer u s
    exact (ih (edgeState u s)).trans hseq

theorem txSequence_of_offLine_eq {s t : State} (h : t.offLine = s.offLine) : t.txSequence = s.txSequence :=
  (congrArg State.txSequence h :)

/-- A run of segments may be taken one longer at its end. -/
theorem sendSteps_succ_of_next {j : Nat} : ∀ {s m : State}, sendSteps j s = .next m → sendSteps (j + 1) s = sendStep m := by
  induction j with
  | zero =>
    intro s m h
    cases h
    rw [sendSteps]
    cases sendStep s <;> rfl
  | succ j ih =>
    intro s m h
    rw [sendSteps] at h ⊢
    split at h
    next s' hstep => exact ih h
    next => cases h
    next => cases h

/-- After its first `j` segments a transmission has the others left to drive, and has not counted yet. -/
theorem sendSteps_in_progress {s : State} {u : Stamp} {segs : List Segment} (htx : s.tx = some ⟨u, segs⟩) :
    ∀ j ≤ segs.length, ∃ m v, sendSteps j s = .next m ∧ m.tx = some ⟨v, segs.drop j⟩ ∧ m.cfg = s.cfg ∧
      m.txSequence = s.txSequence := by
  intro j
  induction j with
  | zero => exact fun _ => ⟨s, u, rfl, htx, rfl, rfl⟩
  | succ j ih =>
    intro hj
    obtain ⟨m, v, hsteps, hmtx, hmcfg, hmseq⟩ := ih (Nat.le_of_succ_le hj)
    rw [List.drop_eq_getElem_cons hj] at hmtx
    obtain ⟨t, hstep, httx, -, htcfg, htline⟩ := sendStep_segment hmtx
    have htseq : t.txSequence = m.txSequence := (txSequence_of_offLine_eq htline).trans (edgesAt_txSequence _ m)
    exact ⟨t, _, (sendSteps_succ_of_next hsteps).trans hstep, httx, htcfg.trans hmcfg, htseq.trans hmseq⟩

/-- With no segment left the next step ends the transmission. -/
theorem sendStep_of_no_segments {s : State} {u : Stamp} (htx : s.tx = some ⟨u, []⟩) : sendStep s = .next (endSend s) := by
  rw [sendStep, htx]

/-- One step for each segment, none of which counts, and then the step that ends the transmission and counts. -/
theorem sendSteps_counts_at_end {s : State} {u : Stamp} {segs : List Segment} (htx : s.tx = some ⟨u, segs⟩) :
    ∃ k t, sendSteps k s = .next t ∧ t.tx = none ∧
      t.txSequence = (if s.cfg.sqEn then s.txSequence + 1 else s.txSequence) ∧
      ∀ j < k, ∃ m, sendSteps j s = .next m ∧ m.tx ≠ none ∧ m.txSequence = s.txSequence := by
  obtain ⟨m, v, hsteps, hmtx, hmcfg, hmseq⟩ := sendSteps_in_progress htx segs.length le_rfl
  rw [List.drop_length] at hmtx
  refine ⟨segs.length + 1, endSend m, (sendSteps_succ_of_next hsteps).trans (sendStep_of_no_segments hmtx), rfl, ?_, ?_⟩
  · rw [endSend, setTxSequence_txSequence, hmcfg, hmseq]
  · intro j hj
    obtain ⟨n, w, hsteps, hntx, -, hnseq⟩ := sendSteps_in_progress htx j (Nat.le_of_lt_succ hj)
    exact ⟨n, hsteps, hntx.trans_ne (Option.some_ne_none _), hnseq⟩

/-! ## The bytes of a frame (R164 to R167) -/

theorem length_if_singleton (b : Bool) (x : Byte) : (if b then [x] else []).length = b.toNat := by
  cases b <;> rfl

section FrameBytes

variable (chk : Byte → List Byte → Byte) (c : Cfg) (q : Byte) (payload : List Byte)

theorem frameBytes_length : (frameBytes chk c q payload).length = 1 + c.ecEn.toNat + c.sqEn.toNat + payload.length := by
  simp only [frameBytes, List.length_append, length_if_singleton, List.length_singleton]

theorem frameBytes_getElem?_zero :
    (frameBytes chk c q payload)[0]? = some (BitVec.ofNat 8 (c.headerLen + payload.length)) := rfl

theorem frameBytes_getElem?_check (hec : c.ecEn = true) :
    (frameBytes chk c q payload)[1]? = some (chk (checkSeed c q) payload) := by
  rw [frameBytes, if_pos hec]
  rfl

theorem frameBytes_getElem?_sequence (hsq : c.sqEn = true) : (frameBytes chk c q payload)[1 + c.ecEn.toNat]? = some q := by
  rw [frameBytes, if_pos hsq]
  cases c.ecEn <;> rfl

theorem frameBytes_getElem?_payload (i : Nat) :
    (frameBytes chk c q payload)[1 + c.ecEn.toNat + c.sqEn.toNat + i]? = payload[i]? := by
  rw [frameBytes, List.getElem?_append_right] <;>
    simp only [List.length_append, length_if_singleton, List.length_singleton]
  · rw [Nat.add_sub_cancel_left]
  · exact Nat.le_add_right _ i

end FrameBytes

/-! ## Which payloads are accepted (R171) -/

theorem maxSendLen_lt_iff (c : Cfg) (n : Nat) : maxSendLen c < n ↔ 255 < n + c.ecEn.toNat + c.sqEn.toNat := by
  have hheader : c.headerLen = c.ecEn.toNat + c.sqEn.toNat := rfl
  have htwo := c.headerLen_le_two
  rw [maxSendLen]
  omega

theorem callSend_of_oversized {chk : Byte → List Byte → Byte} {payload : List Byte} {t0 : Stamp} {s : State}
    (htx : s.tx = none) (h : maxSendLen s.cfg < payload.length) :
    callSend chk payload t0 s = .refused .oversizedPayload := by
  rw [callSend, htx]
  exact if_pos h

theorem callSend_of_fits {chk : Byte → List Byte → Byte} {payload : List Byte} {t0 : Stamp} {s : State}
    (htx : s.tx = none) (h : ¬maxSendLen s.cfg < payload.length) :
    callSend chk payload t0 s =
      .next ((s.setTxPin .high).setTx (some ⟨s.cfg.stamp t0, sendSegments chk s.cfg s.txSequence payload⟩)) := by
  rw [callSend, htx]
  exact if_neg h

end Machine

open Machine

/-! ## The obligations -/

/-- Settles O57: each pulse, and the forced LOW after the last, falls when the period before it is over, whatever `t0` is. The
periods stated are `sendPeriods`. -/
theorem sendFallsAtSumsOfPeriods : Obligations.SendFallsAtSumsOfPeriods :=
  fun chk c q payload t0 _ => fallingEdges_sendSegments chk c q payload t0

/-- Settles O59: an accepted `SEND` has the counter of the state it was called in, and counts with its last step. -/
theorem sequenceCountsAfterSend : Obligations.SequenceCountsAfterSend := by
  intro chk payload t0 s s1 hcall
  obtain ⟨-, -, rfl⟩ := callSend_cases hcall
  exact sendSteps_counts_at_end rfl

/-- Settles O60: `SEND` compares the payload with what the length byte leaves room for, and the frame lists its bytes in the order stated. -/
theorem oversizedSendRefused : Obligations.OversizedSendRefused := by
  intro chk payload t0 s htx ec sq bytes
  have hlimit : maxSendLen s.cfg < payload.length ↔ 255 < payload.length + ec + sq := maxSendLen_lt_iff s.cfg payload.length
  refine ⟨fun hover => callSend_of_oversized htx (hlimit.mpr hover), fun hfits => ?_⟩
  have hlen : (BitVec.ofNat 8 (ec + sq + payload.length)).toNat = ec + sq + payload.length := by
    rw [BitVec.toNat_ofNat]
    exact Nat.mod_eq_of_lt (by omega)
  exact ⟨callSend_of_fits htx (mt hlimit.mp hfits.not_gt), frameBytes_length chk s.cfg s.txSequence payload,
    ⟨_, frameBytes_getElem?_zero chk s.cfg s.txSequence payload, hlen⟩,
    frameBytes_getElem?_check chk s.cfg s.txSequence payload, frameBytes_getElem?_sequence chk s.cfg s.txSequence payload,
    fun i _ => frameBytes_getElem?_payload chk s.cfg s.txSequence payload i⟩

end Sys2Proof
end

section
/-! Proofs for spec/42_frame_assembler.md: the edge and the symbols (R181 to R187), the bits and bytes of a frame (R188 to R193), `COMMIT`
(R194 to R197) and `TMO` (R198). -/

namespace Sys2Proof

/-- The capacity as the modulus of the index arithmetic. -/
theorem Cfg.cap_pos_le {c : Cfg} (h : c.wf = true) : 0 < c.cap ∧ c.cap ≤ 256 :=
  (Cfg.cap_bounds h).imp_left fun hfour => Nat.lt_of_lt_of_le (by decide) hfour

namespace Machine

open Host

/-! ## The symbols at the assembler's input (R182) -/

theorem exec_symbolInstr (y : Symbol) (s : State) : exec (symbolInstr y) s = .next (handle y s).silent :=
  match y with
  | .start => exec_symStart s
  | .one => exec_symOne s
  | .zero => exec_symZero s
  | .noise => exec_symNoise s

theorem handle_bitSymbol (b : Bool) (s : State) : handle (bitSymbol b) s = symbolBit b s := by
  cases b <;> rfl

theorem exec_bitSymbol (b : Bool) (s : State) : exec (symbolInstr (bitSymbol b)) s = .next (symbolBit b s).silent := by
  rw [exec_symbolInstr, handle_bitSymbol]

theorem symbolBit_of_idle (b : Bool) {s : State} (h : s.fip = false) : symbolBit b s = s :=
  if_neg (Bool.eq_false_iff.mp h)

theorem symbolBit_of_inFrame (b : Bool) {s : State} (h : s.fip = true) : symbolBit b s = pushBit b s :=
  if_pos h

/-! ## `COMMIT` (R194) -/

theorem commit_of_idle {s : State} (h : s.fip = false) : commit s = s :=
  if_neg (Bool.eq_false_iff.mp h)

theorem commit_of_no_data {s : State} (h : s.fip = true) (hcnt : s.byteCnt.toNat < 2) : commit s = s.clearFip := by
  rw [commit, if_pos h, if_neg (by omega)]

/-- `COMMIT` clears `fip`, whatever it finds. -/
theorem commit_fip (s : State) : (commit s).fip = false := by
  obtain ⟨hidle, h⟩ | ⟨-, -, h⟩ | ⟨-, -, h⟩ := commit_cases s <;> rw [h]
  · exact hidle
  · rfl
  · rfl

/-- What `COMMIT` writes besides `fip`: with a stored data byte the header slot and the counter, else nothing. -/
theorem commit_committedInto (s : State) : s.committedInto (commit s) := by
  unfold State.committedInto
  obtain ⟨hidle, h⟩ | ⟨-, hcnt, h⟩ | ⟨hfip, hcnt, h⟩ := commit_cases s <;> rw [h]
  · rw [if_neg fun hrec => Bool.eq_false_iff.mp hidle hrec.1]
    exact ⟨rfl, fun _ => rfl⟩
  · rw [if_neg fun hrec => Nat.not_le.mpr hcnt hrec.2]
    exact ⟨rfl, fun _ => rfl⟩
  · rw [if_pos ⟨hfip, hcnt⟩]
    refine ⟨rfl, ?_, fun a ha => ?_⟩
    · rw [setFrames_ringByte, ringByte_writeRing, if_pos rfl]
    · rw [setFrames_ringByte, ringByte_writeRing, clearFip_cfg, if_neg ha, clearFip_ringByte]

/-- The registers `COMMIT` leaves alone: `fip` is the only working register of the assembler it writes, and it moves no cursor. -/
theorem commit_keeps_registers (s : State) :
    { s with fip := false }.sameAssembler (commit s) ∧ s.sameProducerCursors (commit s) ∧ (commit s).rsp = s.rsp := by
  obtain ⟨hidle, h⟩ | ⟨-, -, h⟩ | ⟨-, -, h⟩ := commit_cases s <;> rw [h]
  · exact ⟨⟨rfl, hidle, rfl, rfl, rfl, rfl, rfl⟩, ⟨rfl, rfl⟩, rfl⟩
  · exact ⟨⟨rfl, rfl, rfl, rfl, rfl, rfl, rfl⟩, ⟨rfl, rfl⟩, rfl⟩
  · exact ⟨⟨rfl, rfl, rfl, rfl, rfl, rfl, rfl⟩, ⟨rfl, rfl⟩, rfl⟩

/-- Outside a frame only START does anything (R185 to R187). -/
theorem handle_of_idle {y : Symbol} (hy : y ≠ .start) {s : State} (h : s.fip = false) : handle y s = s :=
  match y with
  | .start => absurd rfl hy
  | .one => symbolBit_of_idle true h
  | .zero => symbolBit_of_idle false h
  | .noise => commit_of_idle h

theorem handleAll_of_idle {ys : List Symbol} (hys : ∀ y ∈ ys, y ≠ .start) {s : State} (h : s.fip = false) :
    handleAll ys s = s := by
  induction ys with
  | nil => rfl
  | cons y ys ih =>
    obtain ⟨hy, hrest⟩ := List.forall_mem_cons.mp hys
    have hstep : handleAll (y :: ys) s = handleAll ys (handle y s) := rfl
    rw [hstep, handle_of_idle hy h, ih hrest]

/-! ## `TMO` (R198) -/

theorem timedOut_iff (s : State) :
    s.timedOut = true ↔
      s.cfg.tmoEn = true ∧ s.fip = true ∧ s.cfg.startPeriod < (s.nowBus - s.lastEdge).toNat % 2 ^ s.cfg.tw.bits := by
  rw [State.timedOut, Bool.and_eq_true, Bool.and_eq_true, decide_eq_true_eq, and_assoc]
  exact Iff.rfl

theorem exec_tmo_of_timedOut (a : Byte) {s : State} (h : s.timedOut = true) :
    exec (.tmo a) s = .next ((commit s).respond .ok 1) :=
  if_pos h

theorem exec_tmo_of_not_timedOut (a : Byte) {s : State} (h : ¬s.timedOut = true) :
    exec (.tmo a) s = .next (s.respond .ok 0) :=
  if_neg h

/-! ## Bits into the accumulator (R188) -/

/-- With `MSB_FIRST` the bit enters at bit 0 and the oldest one is lost. -/
theorem shiftIn_msbFirst_toNat (acc : Byte) (b : Bool) :
    (shiftIn .msbFirst acc b).toNat = (2 * acc.toNat + b.toNat) % 256 := by
  have happend : (shiftIn .msbFirst acc b).toNat = _ := BitVec.toNat_append (acc.extractLsb' 0 7) (BitVec.ofBool b)
  have hlow := BitVec.toNat_ofBool b
  rw [happend, ← Nat.shiftLeft_add_eq_or_of_lt (BitVec.ofBool b).isLt, hlow, BitVec.extractLsb'_toNat, Nat.shiftLeft_eq,
    Nat.shiftRight_zero]
  have := b.toNat_lt
  omega

/-- With `LSB_FIRST` the bit enters at bit 7 and the oldest one is lost. -/
theorem shiftIn_lsbFirst_toNat (acc : Byte) (b : Bool) :
    (shiftIn .lsbFirst acc b).toNat = acc.toNat / 2 + 128 * b.toNat := by
  have happend : (shiftIn .lsbFirst acc b).toNat = _ := BitVec.toNat_append (BitVec.ofBool b) (acc.extractLsb' 1 7)
  have hlow := BitVec.toNat_ofBool b
  have hacc := acc.isLt
  rw [happend, ← Nat.shiftLeft_add_eq_or_of_lt (acc.extractLsb' 1 7).isLt, hlow, BitVec.extractLsb'_toNat, Nat.shiftLeft_eq,
    Nat.shiftRight_eq_div_pow]
  omega

/-- A bit that does not complete a byte (R188). -/
theorem pushBit_of_partial (b : Bool) {s : State} (h : s.pulseCnt ≠ 7) :
    pushBit b s = s.setShift (shiftIn s.cfg.bitOrder s.bitAcc b) (s.pulseCnt + 1) :=
  if_neg h

/-- The eighth bit completes the byte in the accumulator (R188). -/
theorem pushBit_of_eighth (b : Bool) {s : State} (h : s.pulseCnt = 7) :
    pushBit b s = byteReceived (shiftIn s.cfg.bitOrder s.bitAcc b) (s.setShift (shiftIn s.cfg.bitOrder s.bitAcc b) 0) :=
  if_pos h

/-! ## The length byte (R190) -/

/-- In a frame, the first byte is declared and not stored; the frame goes on exactly when the ring can hold that many bytes. -/
theorem byteReceived_length (v : Byte) {s : State} (hfip : s.fip = true) (hcnt : s.byteCnt = 0) :
    byteReceived v s =
      { s with declaredLen := v, byteCnt := 1, fip := decide (1 ≤ v.toNat ∧ v.toNat + 2 ≤ s.cfg.cap) } := by
  obtain ⟨-, hbad, h⟩ | ⟨-, hpos, hmax, h⟩ | ⟨hne, -⟩ | ⟨hne, -⟩ := byteReceived_cases v s
  · have hclosed : decide (1 ≤ v.toNat ∧ v.toNat + 2 ≤ s.cfg.cap) = false := by
      rw [Cfg.maxLen] at hbad
      refine decide_eq_false ?_
      rintro ⟨hone, hfits⟩
      obtain rfl | hlong := hbad
      · exact absurd hone (by decide)
      · omega
    have hone : (s.setDeclared v).byteCnt.toNat < 2 := Nat.one_lt_two
    rw [h, commit_of_no_data (s := s.setDeclared v) hfip hone, hclosed]
    rfl
  · have hopen : decide (1 ≤ v.toNat ∧ v.toNat + 2 ≤ s.cfg.cap) = s.fip := by
      rw [Cfg.maxLen] at hmax
      have hne : v.toNat ≠ 0 := fun h0 => hpos (BitVec.eq_of_toNat_eq h0)
      rw [hfip]
      refine decide_eq_true ?_
      omega
    rw [h, hopen]
    rfl
  · exact absurd hcnt hne
  · exact absurd hcnt hne

/-! ## Index arithmetic modulo `CAP` (43_ring_buffer R210 to R212) -/

section Indices

variable {cap : Nat} (hpos : 0 < cap) (hcap : cap ≤ 256)

include hpos hcap

theorem idxAdd_idxAdd (i : Byte) (m n : Nat) : idxAdd cap (idxAdd cap i m) n = idxAdd cap i (m + n) := by
  refine BitVec.eq_of_toNat_eq ?_
  rw [idxAdd_toNat hpos hcap, idxAdd_toNat hpos hcap, idxAdd_toNat hpos hcap, Nat.mod_add_mod, Nat.add_assoc]

/-- Two offsets from one address reach the same slot exactly when they agree modulo `CAP`. -/
theorem idxAdd_eq_idxAdd_iff (i : Byte) (m n : Nat) : idxAdd cap i m = idxAdd cap i n ↔ m ≡ n [MOD cap] := by
  rw [← BitVec.toNat_inj, idxAdd_toNat hpos hcap, idxAdd_toNat hpos hcap]
  exact ⟨Nat.ModEq.add_left_cancel' i.toNat, Nat.ModEq.add_left i.toNat⟩

theorem idxAdd_ne_idxAdd (i : Byte) {m n : Nat} (hm : m < cap) (hn : n < cap) (hne : m ≠ n) :
    idxAdd cap i m ≠ idxAdd cap i n := by
  rw [Ne, idxAdd_eq_idxAdd_iff hpos hcap]
  exact fun hmod => hne (hmod.eq_of_lt_of_lt hm hn)

/-- Less than two turns come back to the same slot only after a whole one. -/
theorem idxAdd_eq_self_iff {i : Byte} (hi : i.toNat < cap) {n : Nat} (hn : 0 < n) (hn2 : n < 2 * cap) :
    idxAdd cap i n = i ↔ n = cap := by
  have hzero : idxAdd cap i n = i ↔ n ≡ 0 [MOD cap] := by
    rw [← idxAdd_eq_idxAdd_iff hpos hcap i n 0, idxAdd_zero hi]
  rw [hzero, Nat.modEq_zero_iff_dvd]
  exact ⟨fun hdvd => Nat.eq_of_dvd_of_lt_two_mul hn.ne' hdvd hn2, fun heq => heq ▸ dvd_rfl⟩

theorem idxInc_eq_idxAdd {i : Byte} (hi : i.toNat < cap) : idxInc cap i = idxAdd cap i 1 := by
  refine BitVec.eq_of_toNat_eq ?_
  rw [idxAdd_toNat hpos hcap, idxInc]
  split
  next hlast => rw [hlast, Nat.sub_add_cancel hpos, Nat.mod_self]; rfl
  next hlast =>
    have hlt : i.toNat + 1 < cap := by omega
    have hone : (1 : Byte).toNat = 1 := rfl
    rw [Nat.mod_eq_of_lt hlt, BitVec.toNat_add, hone]
    omega

theorem idxInc_lt {i : Byte} (hi : i.toNat < cap) : (idxInc cap i).toNat < cap := by
  rw [idxInc_eq_idxAdd hpos hcap hi]
  exact idxAdd_lt hpos hcap i 1

theorem idxInc_idxAdd (i : Byte) (n : Nat) : idxInc cap (idxAdd cap i n) = idxAdd cap i (n + 1) := by
  rw [idxInc_eq_idxAdd hpos hcap (idxAdd_lt hpos hcap i n), idxAdd_idxAdd hpos hcap]

theorem idxSub_lt {a b : Byte} (ha : a.toNat < cap) : (idxSub cap a b).toNat < cap := by
  rw [idxSub]
  split
  next hle => rw [BitVec.toNat_sub_of_le hle]; omega
  next hle => rw [BitVec.toNat_ofNat]; omega

/-- `IDXSUB` is the distance that `IDXADD` undoes. -/
theorem idxAdd_idxSub {a b : Byte} (ha : a.toNat < cap) (hb : b.toNat < cap) : idxAdd cap b (idxSub cap a b).toNat = a := by
  refine BitVec.eq_of_toNat_eq ?_
  rw [idxAdd_toNat hpos hcap, idxSub]
  split
  next hle =>
    have hle' : b.toNat ≤ a.toNat := hle
    rw [BitVec.toNat_sub_of_le hle, Nat.add_sub_of_le hle', Nat.mod_eq_of_lt ha]
  next hle =>
    have hback : b.toNat + (a.toNat + cap - b.toNat) = a.toNat + cap := by omega
    have hsmall : a.toNat + cap - b.toNat < 2 ^ 8 := by omega
    rw [BitVec.toNat_ofNat, Nat.mod_eq_of_lt hsmall, hback, Nat.add_mod_right, Nat.mod_eq_of_lt ha]

end Indices

/-! ## The cursors of the ring (43_ring_buffer R213, R214, R230) -/

section Cursors

variable {s : State} (hwf : s.cfg.wf = true) (hw : s.writeIndex.toNat < s.cfg.cap)

include hwf hw

/-- `write_index` is `distance` bytes past `tail`. -/
theorem idxAdd_tail_distance : idxAdd s.cfg.cap s.tail s.distance.toNat = s.writeIndex :=
  idxAdd_idxSub (Cfg.cap_pos_le hwf).1 (Cfg.cap_pos_le hwf).2 hw (tail_lt hwf)

/-- Claiming one byte reaches `tail` exactly when `distance` is `CAP - 1`. -/
theorem idxInc_writeIndex_eq_tail_iff : idxInc s.cfg.cap s.writeIndex = s.tail ↔ s.distance.toNat + 1 = s.cfg.cap := by
  obtain ⟨hpos, hcap⟩ := Cfg.cap_pos_le hwf
  have hdist : s.distance.toNat < s.cfg.cap := idxSub_lt hpos hcap hw
  rw [← idxAdd_tail_distance hwf hw, idxInc_idxAdd hpos hcap]
  exact idxAdd_eq_self_iff hpos hcap (tail_lt hwf) (by omega) (by omega)

/-- Claiming two bytes does when it is `CAP - 2`. -/
theorem idxInc_idxInc_writeIndex_eq_tail_iff :
    idxInc s.cfg.cap (idxInc s.cfg.cap s.writeIndex) = s.tail ↔ s.distance.toNat + 2 = s.cfg.cap := by
  obtain ⟨hpos, hcap⟩ := Cfg.cap_pos_le hwf
  obtain ⟨hfour, -⟩ := Cfg.cap_bounds hwf
  have hdist : s.distance.toNat < s.cfg.cap := idxSub_lt hpos hcap hw
  rw [← idxAdd_tail_distance hwf hw, idxInc_idxAdd hpos hcap, idxInc_idxAdd hpos hcap]
  exact idxAdd_eq_self_iff hpos hcap (tail_lt hwf) (by omega) (by omega)

end Cursors

/-- A drop that skips `n` bytes moves `tail` by `n` (R217). -/
theorem setDropped_tail {s : State} (hwf : s.cfg.wf = true) (hskip : s.dropSkip.toNat < s.cfg.cap)
    (hack : s.dropAck.toNat < s.cfg.cap) (n : Nat) (k : Byte) :
    (s.setDropped (idxAdd s.cfg.cap s.dropSkip n) k).tail = idxAdd s.cfg.cap s.tail n := by
  obtain ⟨hpos, hcap⟩ := Cfg.cap_pos_le hwf
  have hskipped : (idxSub s.cfg.cap (idxAdd s.cfg.cap s.dropSkip n) s.dropAck).toNat ≡
      (idxSub s.cfg.cap s.dropSkip s.dropAck).toNat + n [MOD s.cfg.cap] := by
    rw [← idxAdd_eq_idxAdd_iff hpos hcap s.dropAck, ← idxAdd_idxAdd hpos hcap, idxAdd_idxSub hpos hcap hskip hack]
    exact idxAdd_idxSub hpos hcap (idxAdd_lt hpos hcap _ _) hack
  have htail : idxAdd s.cfg.cap s.tail n = _ := idxAdd_idxAdd hpos hcap s.readIndex _ n
  rw [htail]
  exact (idxAdd_eq_idxAdd_iff hpos hcap _ _ _).mpr hskipped

/-- The oldest record's length byte is between 1 and `MAX_LEN` (R230 b). -/
theorem oldest_length_bounds {s : State} (hinv : RingInv s) (hbuf : s.framesBuffered ≠ 0) :
    1 ≤ (s.ringByte s.tail).toNat ∧ (s.ringByte s.tail).toNat ≤ s.cfg.maxLen := by
  obtain ⟨total, hchain, -⟩ := hinv.chain
  obtain ⟨n, hn⟩ : ∃ n, s.framesBuffered.toNat = n + 1 :=
    Nat.exists_eq_succ_of_ne_zero fun h0 => hbuf (BitVec.eq_of_toNat_eq h0)
  rw [hn, chainFrom] at hchain
  rw [State.ringByte, Nat.mod_eq_of_lt (tail_lt hinv.cfgWf)]
  cases hread : s.ring.read? s.tail.toNat with
  | none => simp [hread] at hchain
  | some len =>
    by_cases hlen : 1 ≤ len.toNat ∧ len.toNat ≤ s.cfg.maxLen
    · exact hlen
    · simp [hread, hlen] at hchain

/-- With no record buffered and no frame in progress, `write_index` is at `tail` (R230 b). -/
theorem tail_eq_writeIndex_of_empty {s : State} (hinv : RingInv s) (hfip : s.fip = false) (hempty : s.framesBuffered = 0) :
    s.tail = s.writeIndex := by
  obtain ⟨total, hchain, -⟩ := hinv.chain
  have hzero : s.framesBuffered.toNat = 0 := by rw [hempty]; rfl
  rw [hzero, chainFrom, State.chainEnd, hfip, Option.some.injEq, Prod.mk.injEq] at hchain
  exact hchain.1

/-! ## Claiming ring bytes (43_ring_buffer R216, R217) -/

theorem advance_of_full {s : State} (hfull : idxInc s.cfg.cap s.writeIndex = s.tail) (hbuf : s.framesBuffered ≠ 0) :
    advance s = (drop s).setWriteIndex (idxInc s.cfg.cap s.writeIndex) :=
  if_pos ⟨hfull, hbuf⟩

theorem advance_of_room {s : State} (h : ¬(idxInc s.cfg.cap s.writeIndex = s.tail ∧ s.framesBuffered ≠ 0)) :
    advance s = s.setWriteIndex (idxInc s.cfg.cap s.writeIndex) :=
  if_neg h

theorem advance_writeIndex (s : State) : (advance s).writeIndex = idxInc s.cfg.cap s.writeIndex := by
  obtain ⟨-, -, h⟩ | ⟨-, h⟩ := advance_cases s <;> rw [h] <;> rfl

theorem advance_cfg (s : State) : (advance s).cfg = s.cfg := by
  obtain ⟨-, -, h⟩ | ⟨-, h⟩ := advance_cases s <;> rw [h] <;> rfl

/-- A byte stored elsewhere than at `tail` changes nothing of a drop. -/
theorem drop_writeRing {s : State} {a : Byte} (v : Byte) (h : s.tail.toNat % s.cfg.cap ≠ a.toNat % s.cfg.cap) :
    drop (s.writeRing a v) = (drop s).writeRing a v := by
  rw [drop, writeRing_tail, ringByte_writeRing, if_neg h]
  rfl

/-- Storing at the cursor and claiming the slot commute: when the claim drops a record, the cursor is one byte before that record's length byte,
which the drop reads. -/
theorem advance_writeRing_cursor {s : State} (hwf : s.cfg.wf = true) (hw : s.writeIndex.toNat < s.cfg.cap) (v : Byte) :
    advance (s.writeRing s.writeIndex v) = (advance s).writeRing s.writeIndex v := by
  obtain ⟨hfull, hbuf, h⟩ | ⟨hroom, h⟩ := advance_cases s
  · obtain ⟨hpos, hcap⟩ := Cfg.cap_pos_le hwf
    obtain ⟨hfour, -⟩ := Cfg.cap_bounds hwf
    have hne : s.tail.toNat % s.cfg.cap ≠ s.writeIndex.toNat % s.cfg.cap := by
      rw [Nat.mod_eq_of_lt (tail_lt hwf), Nat.mod_eq_of_lt hw, Ne, BitVec.toNat_inj, ← hfull, idxInc_eq_idxAdd hpos hcap hw,
        idxAdd_eq_self_iff hpos hcap hw Nat.one_pos (by omega)]
      omega
    have hstored := advance_of_full (s := s.writeRing s.writeIndex v) hfull hbuf
    rw [hstored, h, drop_writeRing v hne]
    rfl
  · have hstored := advance_of_room (s := s.writeRing s.writeIndex v) hroom
    rw [hstored, h]
    rfl

/-- When the first of two claims drops the oldest record, the second has room: a record has at least two bytes. -/
theorem advance_advance_of_full {s : State} (hinv : RingInv s) (hfull : idxInc s.cfg.cap s.writeIndex = s.tail)
    (hbuf : s.framesBuffered ≠ 0) :
    advance (advance s) = (drop s).setWriteIndex (idxInc s.cfg.cap (idxInc s.cfg.cap s.writeIndex)) := by
  obtain ⟨hpos, hcap⟩ := Cfg.cap_pos_le hinv.cfgWf
  obtain ⟨hfour, -⟩ := Cfg.cap_bounds hinv.cfgWf
  obtain ⟨-, -, -, hskip, hack⟩ := hinv.indices
  obtain ⟨hone, hmax⟩ := oldest_length_bounds hinv hbuf
  rw [Cfg.maxLen] at hmax
  have htail : (drop s).tail = idxAdd s.cfg.cap s.tail (1 + (s.ringByte s.tail).toNat) :=
    setDropped_tail hinv.cfgWf hskip hack _ _
  have hne : idxInc s.cfg.cap s.tail ≠ (drop s).tail := by
    rw [htail, idxInc_eq_idxAdd hpos hcap (tail_lt hinv.cfgWf)]
    exact idxAdd_ne_idxAdd hpos hcap _ (by omega) (by omega) (by omega)
  rw [advance_of_full hfull hbuf, hfull]
  exact advance_of_room fun hagain => hne hagain.1

theorem dataDrops_iff_of_first {s : State} (hinv : RingInv s) (hfirst : s.byteCnt = 1) :
    s.dataDrops ↔ s.framesBuffered ≠ 0 ∧
      (idxInc s.cfg.cap s.writeIndex = s.tail ∨ idxInc s.cfg.cap (idxInc s.cfg.cap s.writeIndex) = s.tail) := by
  obtain ⟨hw, -⟩ := hinv.indices
  obtain ⟨hpos, hcap⟩ := Cfg.cap_pos_le hinv.cfgWf
  have hdist : s.distance.toNat < s.cfg.cap := idxSub_lt hpos hcap hw
  have hclaims : s.dataClaims = 2 := if_pos hfirst
  rw [State.dataDrops, hclaims, idxInc_writeIndex_eq_tail_iff hinv.cfgWf hw,
    idxInc_idxInc_writeIndex_eq_tail_iff hinv.cfgWf hw]
  exact and_congr_right fun _ => by omega

theorem dataDrops_iff_of_later {s : State} (hinv : RingInv s) (hlater : s.byteCnt ≠ 1) :
    s.dataDrops ↔ s.framesBuffered ≠ 0 ∧ idxInc s.cfg.cap s.writeIndex = s.tail := by
  obtain ⟨hw, -⟩ := hinv.indices
  obtain ⟨hpos, hcap⟩ := Cfg.cap_pos_le hinv.cfgWf
  have hdist : s.distance.toNat < s.cfg.cap := idxSub_lt hpos hcap hw
  have hclaims : s.dataClaims = 1 := if_neg hlater
  rw [State.dataDrops, hclaims, idxInc_writeIndex_eq_tail_iff hinv.cfgWf hw]
  exact and_congr_right fun _ => by omega

/-- The two claims of a first data byte drop at most one record. -/
theorem advance_advance_eq {s : State} (hinv : RingInv s) (hfirst : s.byteCnt = 1) :
    advance (advance s) =
      (if s.dataDrops then drop s else s).setWriteIndex (idxInc s.cfg.cap (idxInc s.cfg.cap s.writeIndex)) := by
  by_cases hfull : idxInc s.cfg.cap s.writeIndex = s.tail ∧ s.framesBuffered ≠ 0
  · rw [if_pos ((dataDrops_iff_of_first hinv hfirst).mpr ⟨hfull.2, .inl hfull.1⟩)]
    exact advance_advance_of_full hinv hfull.1 hfull.2
  · rw [advance_of_room hfull]
    by_cases hnext : idxInc s.cfg.cap (idxInc s.cfg.cap s.writeIndex) = s.tail ∧ s.framesBuffered ≠ 0
    · rw [if_pos ((dataDrops_iff_of_first hinv hfirst).mpr ⟨hnext.2, .inr hnext.1⟩)]
      exact advance_of_full (s := s.setWriteIndex (idxInc s.cfg.cap s.writeIndex)) hnext.1 hnext.2
    · have hkeeps : ¬s.dataDrops := by
        rw [dataDrops_iff_of_first hinv hfirst]
        rintro ⟨hbuf, hone | htwo⟩
        · exact hfull ⟨hone, hbuf⟩
        · exact hnext ⟨htwo, hbuf⟩
      rw [if_neg hkeeps]
      exact advance_of_room (s := s.setWriteIndex (idxInc s.cfg.cap s.writeIndex)) hnext

/-- The one claim of a later data byte. -/
theorem advance_eq {s : State} (hinv : RingInv s) (hlater : s.byteCnt ≠ 1) :
    advance s = (if s.dataDrops then drop s else s).setWriteIndex (idxInc s.cfg.cap s.writeIndex) := by
  by_cases hdrops : s.dataDrops
  · obtain ⟨hbuf, hfull⟩ := (dataDrops_iff_of_later hinv hlater).mp hdrops
    rw [if_pos hdrops, advance_of_full hfull hbuf]
  · rw [if_neg hdrops]
    exact advance_of_room fun hfull => hdrops ((dataDrops_iff_of_later hinv hlater).mpr ⟨hfull.2, hfull.1⟩)

theorem dataSlot_of_first {s : State} (h : s.byteCnt = 1) : s.dataSlot = idxInc s.cfg.cap s.writeIndex := if_pos h
theorem dataSlot_of_later {s : State} (h : s.byteCnt ≠ 1) : s.dataSlot = s.writeIndex := if_neg h

/-- The registers and the slot that a data byte writes: the byte at its slot, the cursor past it, and the oldest record away if the claim
reaches it (R190, R193, R216). -/
def State.stored (s : State) (v : Byte) : State :=
  ((s.setDropped (if s.dataDrops then idxAdd s.cfg.cap s.dropSkip (1 + (s.ringByte s.tail).toNat) else s.dropSkip)
    (s.framesBuffered - if s.dataDrops then 1 else 0)).writeRing s.dataSlot v).setWriteIndex (idxInc s.cfg.cap s.dataSlot)

theorem stored_ringByte (s : State) (v a : Byte) :
    (s.stored v).ringByte a = if a.toNat % s.cfg.cap = s.dataSlot.toNat % s.cfg.cap then v else s.ringByte a :=
  ringByte_writeRing (s.setDropped _ _) s.dataSlot v a

theorem stored_of_drop {s : State} (h : s.dataDrops) (v : Byte) :
    s.stored v = ((drop s).writeRing s.dataSlot v).setWriteIndex (idxInc s.cfg.cap s.dataSlot) := by
  rw [State.stored, if_pos h, if_pos h, drop]

theorem stored_of_no_drop {s : State} (h : ¬s.dataDrops) (v : Byte) :
    s.stored v = (s.writeRing s.dataSlot v).setWriteIndex (idxInc s.cfg.cap s.dataSlot) := by
  have hsame : s.framesBuffered - 0 = s.framesBuffered := BitVec.sub_zero _
  rw [State.stored, if_neg h, if_neg h, hsame]
  rfl

theorem storeByte_eq_stored {s : State} (hinv : RingInv s) (v : Byte) : storeByte v s = s.stored v := by
  obtain ⟨hw, -⟩ := hinv.indices
  obtain ⟨hpos, hcap⟩ := Cfg.cap_pos_le hinv.cfgWf
  have hstored : s.stored v =
      ((if s.dataDrops then drop s else s).writeRing s.dataSlot v).setWriteIndex (idxInc s.cfg.cap s.dataSlot) := by
    split
    next hdrops => exact stored_of_drop hdrops v
    next hkeeps => exact stored_of_no_drop hkeeps v
  obtain ⟨hfirst, h⟩ | ⟨hlater, h⟩ := storeByte_cases v s
  · have hwf' : (advance s).cfg.wf = true := by rw [advance_cfg]; exact hinv.cfgWf
    have hw' : (advance s).writeIndex.toNat < (advance s).cfg.cap := by
      rw [advance_cfg, advance_writeIndex]
      exact idxInc_lt hpos hcap hw
    rw [h, advance_writeRing_cursor hwf' hw', advance_writeIndex, advance_advance_eq hinv hfirst, hstored,
      dataSlot_of_first hfirst]
    rfl
  · rw [h, advance_writeRing_cursor hinv.cfgWf hw, advance_eq hinv hlater, hstored, dataSlot_of_later hlater]
    rfl

/-- With no record buffered there is none to drop, whatever else holds. -/
theorem storeByte_eq_stored_of_empty {s : State} (h : s.framesBuffered = 0) (v : Byte) : storeByte v s = s.stored v := by
  have hroom (u : State) (hu : u.framesBuffered = 0) : advance u = u.setWriteIndex (idxInc u.cfg.cap u.writeIndex) :=
    advance_of_room fun hfull => hfull.2 hu
  rw [stored_of_no_drop (fun hdrops => hdrops.1 h)]
  obtain ⟨hfirst, he⟩ | ⟨hlater, he⟩ := storeByte_cases v s
  · have hclaimed := hroom ((s.setWriteIndex (idxInc s.cfg.cap s.writeIndex)).writeRing (idxInc s.cfg.cap s.writeIndex) v) h
    rw [he, hroom s h, dataSlot_of_first hfirst]
    exact hclaimed
  · rw [he, dataSlot_of_later hlater]
    exact hroom (s.writeRing s.writeIndex v) h

/-! ## The data byte (R190) -/

/-- The slot of the next data byte is `byte_cnt` bytes behind the header slot (R193, 43_ring_buffer R230 c). -/
theorem dataSlot_eq {s : State} (hinv : RingInv s) (hfip : s.fip = true) (hcnt : s.byteCnt ≠ 0) :
    s.dataSlot = idxAdd s.cfg.cap s.frameStart s.byteCnt.toNat := by
  obtain ⟨-, -, hstart, -⟩ := hinv.indices
  obtain ⟨hpos, hcap⟩ := Cfg.cap_pos_le hinv.cfgWf
  have hcursor := hinv.cursor hfip
  by_cases hfirst : s.byteCnt = 1
  · have hone : s.byteCnt.toNat = 1 := by rw [hfirst]; rfl
    rw [if_neg (by omega)] at hcursor
    rw [dataSlot_of_first hfirst, hcursor, hone, idxInc_eq_idxAdd hpos hcap hstart]
  · rw [if_pos (by bv_omega)] at hcursor
    rw [dataSlot_of_later hfirst, hcursor]

theorem dataSlot_lt {s : State} (hinv : RingInv s) (hfip : s.fip = true) (hcnt : s.byteCnt ≠ 0) :
    s.dataSlot.toNat < s.cfg.cap := by
  obtain ⟨hpos, hcap⟩ := Cfg.cap_pos_le hinv.cfgWf
  rw [dataSlot_eq hinv hfip hcnt]
  exact idxAdd_lt hpos hcap _ _

/-- No data byte goes to the header slot. -/
theorem dataSlot_ne_header {s : State} (hinv : RingInv s) (hfip : s.fip = true) (hcnt : s.byteCnt ≠ 0) :
    s.dataSlot.toNat % s.cfg.cap ≠ s.frameStart.toNat := by
  obtain ⟨hpos, hcap⟩ := Cfg.cap_pos_le hinv.cfgWf
  obtain ⟨-, -, hstart, -⟩ := hinv.indices
  obtain ⟨hbound, -⟩ := hinv.counts
  rw [Nat.mod_eq_of_lt (dataSlot_lt hinv hfip hcnt), Ne, BitVec.toNat_inj, dataSlot_eq hinv hfip hcnt,
    idxAdd_eq_self_iff hpos hcap hstart (by bv_omega) (by omega)]
  omega

/-- The state between the storing of a frame's next byte and the check whether it was the last (R190). -/
def State.counted (s : State) (v : Byte) : State := ((s.setShift v 0).stored v).setByteCnt (s.byteCnt + 1)

section

variable (s : State) (v : Byte)

@[simp] theorem counted_cfg : (s.counted v).cfg = s.cfg := rfl
@[simp] theorem counted_lastEdge : (s.counted v).lastEdge = s.lastEdge := rfl
@[simp] theorem counted_fip : (s.counted v).fip = s.fip := rfl
@[simp] theorem counted_pulseCnt : (s.counted v).pulseCnt = 0 := rfl
@[simp] theorem counted_bitAcc : (s.counted v).bitAcc = v := rfl
@[simp] theorem counted_byteCnt : (s.counted v).byteCnt = s.byteCnt + 1 := rfl
@[simp] theorem counted_declaredLen : (s.counted v).declaredLen = s.declaredLen := rfl
@[simp] theorem counted_frameStart : (s.counted v).frameStart = s.frameStart := rfl
@[simp] theorem counted_writeIndex : (s.counted v).writeIndex = idxInc s.cfg.cap s.dataSlot := rfl
@[simp] theorem counted_dropSkip : (s.counted v).dropSkip =
    if s.dataDrops then idxAdd s.cfg.cap s.dropSkip (1 + (s.ringByte s.tail).toNat) else s.dropSkip := rfl
@[simp] theorem counted_framesBuffered :
    (s.counted v).framesBuffered = s.framesBuffered - if s.dataDrops then 1 else 0 := rfl

end

theorem counted_ringByte (s : State) (v a : Byte) :
    (s.counted v).ringByte a = if a.toNat % s.cfg.cap = s.dataSlot.toNat % s.cfg.cap then v else s.ringByte a :=
  stored_ringByte (s.setShift v 0) v a

theorem byteReceived_last {s : State} {v : Byte} (hstore : storeByte v (s.setShift v 0) = (s.setShift v 0).stored v)
    (hcnt : s.byteCnt ≠ 0) (h : s.byteCnt = s.declaredLen) : byteReceived v (s.setShift v 0) = commit (s.counted v) := by
  have hdata : byteReceived v (s.setShift v 0) = dataByte v (s.setShift v 0) := if_neg hcnt
  rw [hdata, dataByte, hstore]
  exact if_pos h

theorem byteReceived_more {s : State} {v : Byte} (hstore : storeByte v (s.setShift v 0) = (s.setShift v 0).stored v)
    (hcnt : s.byteCnt ≠ 0) (h : s.byteCnt ≠ s.declaredLen) : byteReceived v (s.setShift v 0) = s.counted v := by
  have hdata : byteReceived v (s.setShift v 0) = dataByte v (s.setShift v 0) := if_neg hcnt
  rw [hdata, dataByte, hstore]
  exact if_neg h

/-- The `COMMIT` after the last data byte: the header slot receives the declared length. -/
theorem commit_counted {s : State} (hinv : RingInv s) (hfip : s.fip = true) (hcnt : s.byteCnt ≠ 0)
    (hlast : s.byteCnt = s.declaredLen) (v : Byte) :
    (commit (s.counted v)).framesBuffered = (s.counted v).framesBuffered + 1 ∧
      (commit (s.counted v)).ringByte s.frameStart = s.declaredLen ∧
      ∀ a : Byte, a.toNat % s.cfg.cap ≠ s.frameStart.toNat → (commit (s.counted v)).ringByte a = (s.counted v).ringByte a := by
  obtain ⟨-, -, hstart, -⟩ := hinv.indices
  obtain ⟨-, hbound⟩ := hinv.counts
  obtain ⟨hcap, hcap'⟩ := Cfg.cap_bounds hinv.cfgWf
  have hmax := (hbound hfip (by bv_omega)).2
  rw [Cfg.maxLen, ← hlast] at hmax
  have htwo : 2 ≤ (s.byteCnt + 1).toNat := by bv_omega
  have hinto := commit_committedInto (s.counted v)
  rw [State.committedInto, if_pos ⟨hfip, htwo⟩, counted_frameStart, counted_cfg, counted_byteCnt, BitVec.add_sub_cancel, hlast,
    Nat.mod_eq_of_lt hstart] at hinto
  exact hinto

/-! ## Runs of bits and bytes (R182, R188; 30_encoding R104) -/

theorem handleAll_cons (y : Symbol) (ys : List Symbol) (s : State) : handleAll (y :: ys) s = handleAll ys (handle y s) := rfl

theorem handleAll_append (xs ys : List Symbol) (s : State) : handleAll (xs ++ ys) s = handleAll ys (handleAll xs s) :=
  List.foldl_append

/-- The bits that complete a byte, by induction on them: each enters the accumulator, and after the last it is handed over. -/
theorem handleAll_bits (b : Bool) (bits : List Bool) {s : State} (hfip : s.fip = true)
    (hlen : s.pulseCnt.toNat + bits.length = 7) {v : Byte} (hv : (b :: bits).foldl (shiftIn s.cfg.bitOrder) s.bitAcc = v) :
    handleAll ((b :: bits).map bitSymbol) s = byteReceived v (s.setShift v 0) := by
  induction bits generalizing b s with
  | nil =>
    have hseven : s.pulseCnt = 7 := BitVec.eq_of_toNat_eq hlen
    rw [List.map_cons, handleAll_cons, handle_bitSymbol, symbolBit_of_inFrame b hfip, pushBit_of_eighth b hseven]
    subst hv
    rfl
  | cons b' bits ih =>
    rw [List.length_cons] at hlen
    have hpartial : s.pulseCnt ≠ 7 := by bv_omega
    have hnext : (s.pulseCnt + 1).toNat + bits.length = 7 := by bv_omega
    rw [List.map_cons, handleAll_cons, handle_bitSymbol, symbolBit_of_inFrame b hfip, pushBit_of_partial b hpartial]
    exact ih b' (s := s.setShift _ _) hfip hnext hv

/-- The symbols of a byte, at a byte boundary of a frame, are that byte received: transmitter and receiver agree on the bit order (O21). -/
theorem handleAll_byteSymbols (v : Byte) {s : State} (hfip : s.fip = true) (hpulse : s.pulseCnt = 0) :
    handleAll (byteSymbols s.cfg.bitOrder v) s = byteReceived v (s.setShift v 0) := by
  have hback := byteBitsShiftBack s.cfg.bitOrder v s.bitAcc
  have hlen := byteBits_length s.cfg.bitOrder v
  rw [byteSymbols]
  cases hbits : byteBits s.cfg.bitOrder v with
  | nil => simp [hbits] at hlen
  | cons b bits =>
    rw [hbits] at hback hlen
    refine handleAll_bits b bits hfip ?_ hback
    rw [hpulse]
    simpa using hlen

/-! ## A whole frame into an empty ring (R184 to R196) -/

theorem recordBytes_succ (s : State) (a : Byte) (lo n : Nat) :
    s.recordBytes a lo (n + 1) = s.recordBytes a lo n ++ [s.ringByte (idxAdd s.cfg.cap a (lo + n))] := by
  simp [State.recordBytes, List.range_succ]

theorem recordBytes_congr {s t : State} {a : Byte} {lo n : Nat} (hcfg : t.cfg = s.cfg)
    (h : ∀ i < n, t.ringByte (idxAdd s.cfg.cap a (lo + i)) = s.ringByte (idxAdd s.cfg.cap a (lo + i))) :
    t.recordBytes a lo n = s.recordBytes a lo n := by
  rw [State.recordBytes, State.recordBytes, hcfg]
  exact List.map_congr_left fun i hi => h i (List.mem_range.mp hi)

/-- `u` is in the middle of a frame that declares `n` bytes, opened where `s` had its `write_index`, with the bytes `done` stored behind its
header slot and no record buffered. -/
structure Receiving (s : State) (n : Nat) (done : List Byte) (u : State) : Prop where
  cfg : u.cfg = s.cfg
  inFrame : u.fip = true
  boundary : u.pulseCnt = 0
  count : u.byteCnt.toNat = done.length + 1
  declared : u.declaredLen.toNat = n
  empty : u.framesBuffered = 0
  header : u.frameStart = s.writeIndex
  slot : u.dataSlot = idxAdd s.cfg.cap s.writeIndex (done.length + 1)
  tail : u.tail = s.tail
  skip : u.dropSkip = s.dropSkip
  stored : u.recordBytes s.writeIndex 1 done.length = done

/-- START and an acceptable length byte open such a frame. -/
theorem receiving_nil {s : State} (hwf : s.cfg.wf = true) (hw : s.writeIndex.toNat < s.cfg.cap) (hbuf : s.framesBuffered = 0)
    {v : Byte} (hone : 1 ≤ v.toNat) (hmax : v.toNat + 2 ≤ s.cfg.cap) :
    Receiving s v.toNat [] (byteReceived v (s.openFrame.setShift v 0)) := by
  obtain ⟨hpos, hcap⟩ := Cfg.cap_pos_le hwf
  rw [byteReceived_length v (s := s.openFrame.setShift v 0) rfl rfl]
  exact {
    cfg := rfl, inFrame := decide_eq_true ⟨hone, hmax⟩, boundary := rfl, count := rfl, declared := rfl, empty := hbuf,
    header := rfl, slot := idxInc_eq_idxAdd hpos hcap hw, tail := rfl, skip := rfl, stored := rfl }

section

variable {s u : State} {n : Nat} {done : List Byte} (h : Receiving s n done u)

include h

/-- The symbols of a data byte store it, and close the frame if it was the last (R190, R191). -/
theorem handleAll_dataByte (v : Byte) :
    handleAll (byteSymbols s.cfg.bitOrder v) u = if done.length + 1 = n then commit (u.counted v) else u.counted v := by
  have hcount := h.count
  have hdeclared := h.declared
  have hdata : u.byteCnt ≠ 0 := by bv_omega
  have hstore := storeByte_eq_stored_of_empty (s := u.setShift v 0) h.empty v
  have hsymbols := handleAll_byteSymbols v h.inFrame h.boundary
  rw [h.cfg] at hsymbols
  rw [hsymbols]
  split
  next hlast => exact byteReceived_last hstore hdata (BitVec.eq_of_toNat_eq (by omega))
  next hmore => exact byteReceived_more hstore hdata fun heq => hmore (by rw [← hcount, heq, hdeclared])

variable (hwf : s.cfg.wf = true)

include hwf

/-- The next data byte is stored behind the others. -/
theorem receiving_counted (v : Byte) (hfits : done.length + 2 < s.cfg.cap) : Receiving s n (done ++ [v]) (u.counted v) := by
  obtain ⟨hpos, hcap⟩ := Cfg.cap_pos_le hwf
  have hcount := h.count
  have hkeeps : ¬u.dataDrops := fun hdrops => hdrops.1 h.empty
  have hlen : (done ++ [v]).length = done.length + 1 := List.length_append
  have hbytes : (u.counted v).byteCnt.toNat = done.length + 1 + 1 := by
    rw [counted_byteCnt]
    bv_omega
  have hother : ∀ i < done.length,
      (u.counted v).ringByte (idxAdd u.cfg.cap s.writeIndex (1 + i)) = u.ringByte (idxAdd u.cfg.cap s.writeIndex (1 + i)) := by
    intro i hi
    have hne : idxAdd s.cfg.cap s.writeIndex (1 + i) ≠ idxAdd s.cfg.cap s.writeIndex (done.length + 1) :=
      idxAdd_ne_idxAdd hpos hcap _ (by omega) (by omega) (by omega)
    rw [counted_ringByte, h.slot, h.cfg, Nat.mod_eq_of_lt (idxAdd_lt hpos hcap _ _), Nat.mod_eq_of_lt (idxAdd_lt hpos hcap _ _),
      if_neg (mt BitVec.eq_of_toNat_eq hne)]
  exact {
    cfg := h.cfg
    inFrame := h.inFrame
    boundary := rfl
    count := by rw [hbytes, hlen]
    declared := h.declared
    empty := by rw [counted_framesBuffered, if_neg hkeeps, h.empty]; rfl
    header := h.header
    slot := by
      have hlater : (u.counted v).byteCnt ≠ 1 := by bv_omega
      rw [dataSlot_of_later hlater, counted_writeIndex, h.slot, h.cfg, idxInc_idxAdd hpos hcap, hlen]
    tail := by
      rw [State.counted, stored_of_no_drop (s := u.setShift v 0) hkeeps]
      exact h.tail
    skip := by rw [counted_dropSkip, if_neg hkeeps, h.skip]
    stored := by
      rw [hlen, recordBytes_succ, recordBytes_congr (counted_cfg u v) hother, h.stored, counted_ringByte, h.slot, counted_cfg, h.cfg,
        Nat.add_comm, if_pos rfl] }

/-- The data bytes still to come, by induction on them: the last one is followed by a `COMMIT`. -/
theorem handleAll_dataBytes (v : Byte) (rest : List Byte) (hn : done.length + (rest.length + 1) = n) (hfits : n + 2 ≤ s.cfg.cap) :
    ∃ w, Receiving s n (done ++ v :: rest) w ∧
      handleAll ((v :: rest).flatMap (byteSymbols s.cfg.bitOrder)) u = commit w := by
  induction rest generalizing done u v with
  | nil =>
    rw [List.length_nil, Nat.zero_add] at hn
    refine ⟨u.counted v, receiving_counted h hwf v (by omega), ?_⟩
    rw [List.flatMap_singleton, handleAll_dataByte h v, if_pos hn]
  | cons v' rest ih =>
    rw [List.length_cons] at hn
    have hnext := receiving_counted h hwf v (by omega)
    have hlen : (done ++ [v]).length = done.length + 1 := List.length_append
    obtain ⟨w, hw, hall⟩ := ih hnext v' (by omega)
    rw [List.append_assoc, List.singleton_append] at hw
    refine ⟨w, hw, ?_⟩
    rw [List.flatMap_cons, handleAll_append, handleAll_dataByte h v, if_neg (by omega), hall]

/-- The `COMMIT` of a frame with all its bytes stored makes them a record behind their number. -/
theorem commit_of_received (hone : 1 ≤ done.length) (hfits : done.length + 2 ≤ s.cfg.cap)
    (hw : s.writeIndex.toNat < s.cfg.cap) :
    (commit u).framesBuffered = 1 ∧ ((commit u).ringByte s.writeIndex).toNat = done.length ∧
      (commit u).recordBytes s.writeIndex 1 done.length = done := by
  obtain ⟨hpos, hcap⟩ := Cfg.cap_pos_le hwf
  have hcount := h.count
  have hinto := commit_committedInto u
  rw [State.committedInto, if_pos ⟨h.inFrame, by omega⟩, h.header, h.empty] at hinto
  obtain ⟨hframes, hlength, hothers⟩ := hinto
  have hcfg : (commit u).cfg = u.cfg := ((timebase_eq_iff _ _).mp (commit_timebase u)).1
  refine ⟨hframes, ?_, ?_⟩
  · rw [hlength]
    bv_omega
  · rw [recordBytes_congr hcfg fun i hi => hothers _ ?_, h.stored]
    have hbehind : idxAdd s.cfg.cap s.writeIndex (1 + i) ≠ s.writeIndex := by
      rw [Ne, idxAdd_eq_self_iff hpos hcap hw (by omega) (by omega)]
      omega
    rw [h.cfg, Nat.mod_eq_of_lt (idxAdd_lt hpos hcap _ _), Nat.mod_eq_of_lt hw]
    exact mt BitVec.eq_of_toNat_eq hbehind

end

theorem commit_tail (s : State) : (commit s).tail = s.tail := by
  obtain ⟨-, h⟩ | ⟨-, -, h⟩ | ⟨-, -, h⟩ := commit_cases s <;> rw [h] <;> rfl

end Machine

open Machine

/-! ## The obligations -/

/-- Settles O13: the period is formed before `last_edge` is written, and the handler of its symbol runs on the state with the new
`last_edge`, which no handler writes. -/
theorem edgeClassifiesAndHandles : Obligations.EdgeClassifiesAndHandles := by
  intro t s
  refine ⟨_, exec_edge t s, ?_, exec_symbolInstr _ (s.setLastEdge t)⟩
  obtain ⟨-, hedge, -⟩ := (timebase_eq_iff _ _).mp (handle_timebase (classify s.cfg (s.period t)) (s.setLastEdge t))
  have hfits : t.toNat % 2 ^ s.cfg.tw.bits < 2 ^ 64 := (Nat.mod_le _ _).trans_lt t.isLt
  rw [silent_lastEdge, hedge, setLastEdge_lastEdge, Cfg.stamp, BitVec.toNat_ofNat, Nat.mod_eq_of_lt hfits]

/-- Settles O22, case by case of what `COMMIT` can do. -/
theorem commitIsTestAndClear : Obligations.CommitIsTestAndClear := by
  intro s
  obtain ⟨hasm, hcursors, hrsp⟩ := commit_keeps_registers s
  have hbeside : s.sameBesideProducer (commit s) :=
    (closedUnderProducer_sameBesideProducer s).commit (sameBesideProducer_refl s)
  exact ⟨commit_fip s, commit_committedInto s, hasm, hcursors, hbeside, hrsp⟩

/-- Settles O14: a START is a `COMMIT` (O22) followed by assignments to the assembler's own registers. -/
theorem startOpensFrame : Obligations.StartOpensFrame := by
  refine ⟨fun tw => decodeReadsBackEncode tw .symStart rfl, fun s => ⟨_, exec_symStart s, ?_⟩⟩
  obtain ⟨-, hinto, ⟨hedge, -⟩, hcursors, hbeside, -⟩ := commitIsTestAndClear s
  exact ⟨rfl, rfl, rfl, rfl, rfl, hcursors.1, hinto, hedge, hcursors, hbeside, rfl⟩

/-- Settles O15: a NOISE is a `COMMIT` (O22). -/
theorem noiseClosesFrame : Obligations.NoiseClosesFrame := by
  refine ⟨fun tw => decodeReadsBackEncode tw .symNoise rfl, fun s => ⟨_, exec_symNoise s, ?_⟩⟩
  obtain ⟨hfip, hinto, hasm, hcursors, hbeside, -⟩ := commitIsTestAndClear s
  exact ⟨hfip, hinto, hasm, hcursors, hbeside, rfl⟩

/-- Settles O16: a bit symbol asks for a frame in progress first. -/
theorem bitsOutsideFrameIgnored : Obligations.BitsOutsideFrameIgnored := by
  intro b s hidle
  rw [exec_bitSymbol, symbolBit_of_idle b hidle]
  rfl

/-- Settles O17: by bit order, the shifted accumulator as a number; a count other than 7 does not wrap. -/
theorem bitEntersAccumulator : Obligations.BitEntersAccumulator := by
  intro b s hfip hcnt
  refine ⟨shiftIn s.cfg.bitOrder s.bitAcc b, s.pulseCnt + 1, ?exec, ?count, ?value⟩
  case exec =>
    rw [exec_bitSymbol, symbolBit_of_inFrame b hfip, pushBit_of_partial b hcnt]
    rfl
  case count => bv_omega
  case value =>
    cases s.cfg.bitOrder with
    | msbFirst => exact shiftIn_msbFirst_toNat s.bitAcc b
    | lsbFirst => exact shiftIn_lsbFirst_toNat s.bitAcc b

/-- Settles O18: the eighth bit hands the byte to `BYTE`, which takes a frame's first byte as its length. -/
theorem lengthByteDeclares : Obligations.LengthByteDeclares := by
  intro b s hfip hpulse hcnt
  have hlength := byteReceived_length (shiftIn s.cfg.bitOrder s.bitAcc b)
    (s := s.setShift (shiftIn s.cfg.bitOrder s.bitAcc b) 0) hfip hcnt
  rw [exec_bitSymbol, symbolBit_of_inFrame b hfip, pushBit_of_eighth b hpulse, hlength]
  rfl

/-- Settles O19: the eighth bit hands the byte to `BYTE`, which stores it; the last one is followed by a `COMMIT`. -/
theorem dataByteStored : Obligations.DataByteStored := by
  intro b s hinv hfip hpulse hcnt
  have hbeside : s.sameBesideProducer (symbolBit b s).silent :=
    have hprod := closedUnderProducer_sameBesideProducer s
    hprod.silent (hprod.symbolBit b (sameBesideProducer_refl s))
  refine ⟨_, exec_bitSymbol b s, ?_⟩
  rw [symbolBit_of_inFrame b hfip, pushBit_of_eighth b hpulse] at hbeside ⊢
  generalize shiftIn s.cfg.bitOrder s.bitAcc b = v at hbeside ⊢
  have hslot := Nat.mod_eq_of_lt (dataSlot_lt hinv hfip hcnt)
  have hshifted : RingInv (s.setShift v 0) :=
    ⟨hinv.cfgWf, hinv.ringWf, hinv.indices, hinv.chain, hinv.cursor, hinv.counts⟩
  have hstore := storeByte_eq_stored hshifted v
  by_cases hlast : s.byteCnt = s.declaredLen
  · obtain ⟨⟨hedge, hidle, hpulses, hacc, hbytes, hdeclared, hframe⟩, ⟨hcursor, hskip⟩, -⟩ :=
      commit_keeps_registers (s.counted v)
    obtain ⟨hframes, hlength, hothers⟩ := commit_counted hinv hfip hcnt hlast v
    rw [byteReceived_last hstore hcnt hlast] at hbeside ⊢
    refine ⟨hacc, hpulses, hbytes, hdeclared, hframe, hedge, ?fip, hcursor, ?byte, fun _ => hlength, fun a ha ha' => ?others,
      hskip, ?frames, hbeside, rfl⟩
    case fip => exact hidle.trans (decide_eq_false (not_not.mpr hlast)).symm
    case byte => rw [silent_ringByte, hothers _ (dataSlot_ne_header hinv hfip hcnt), counted_ringByte, if_pos rfl]
    case others => rw [silent_ringByte, hothers a (ha' hlast), counted_ringByte, hslot, if_neg ha]
    case frames => rw [silent_framesBuffered, hframes, counted_framesBuffered, if_pos hlast]
  · rw [byteReceived_more hstore hcnt hlast] at hbeside ⊢
    refine ⟨counted_bitAcc s v, counted_pulseCnt s v, counted_byteCnt s v, counted_declaredLen s v, counted_frameStart s v,
      counted_lastEdge s v, ?fip, counted_writeIndex s v, ?byte, fun h => absurd h hlast, fun a ha _ => ?others,
      counted_dropSkip s v, ?frames, hbeside, rfl⟩
    case fip => rw [silent_fip, counted_fip, hfip, decide_eq_true hlast]
    case byte => rw [silent_ringByte, counted_ringByte, if_pos rfl]
    case others => rw [silent_ringByte, counted_ringByte, hslot, if_neg ha]
    case frames =>
      rw [silent_framesBuffered, counted_framesBuffered, if_neg hlast]
      exact (BitVec.add_zero _).symm

/-- Settles O23: after a `COMMIT` the assembler is in `IDLE`, where nothing but START acts. -/
theorem secondCommitDoesNothing : Obligations.SecondCommitDoesNothing := by
  intro s ys hys
  rw [handleAll_of_idle hys (commit_fip s), commit_of_idle (commit_fip s)]

/-- Settles O24: the poll's condition decides between a `COMMIT` (O22) and nothing. -/
theorem timeoutPollCommits : Obligations.TimeoutPollCommits := by
  intro a s
  refine ⟨fun tw => decodeReadsBackEncode tw (.tmo a) rfl, fun hsilent => ?_, fun hnot => ?_⟩
  · obtain ⟨hfip, hinto, hasm, hcursors, hbeside, -⟩ := commitIsTestAndClear s
    exact ⟨_, exec_tmo_of_timedOut a ((timedOut_iff s).mpr hsilent), hfip, hinto, hasm, hcursors, hbeside, rfl⟩
  · exact exec_tmo_of_not_timedOut a (mt (timedOut_iff s).mp hnot)

/-- Settles O25: START and the length byte open a frame into which the bytes are stored one by one; the `COMMIT` of the last one makes the
record. -/
theorem frameReceivedWhole : Obligations.FrameReceivedWhole := by
  intro s bytes hinv hidle hempty hone hmax t
  obtain ⟨hfour, hcap⟩ := Cfg.cap_bounds hinv.cfgWf
  obtain ⟨hw, -⟩ := hinv.indices
  have hfits : bytes.length + 2 ≤ s.cfg.cap := by
    rw [Cfg.maxLen] at hmax
    omega
  have hlen : (BitVec.ofNat 8 bytes.length).toNat = bytes.length := by
    rw [BitVec.toNat_ofNat]
    exact Nat.mod_eq_of_lt (by omega)
  have hopen := receiving_nil hinv.cfgWf hw hempty (v := BitVec.ofNat 8 bytes.length) (by omega) (by omega)
  rw [hlen] at hopen
  obtain ⟨v, rest, hbytes⟩ := List.exists_cons_of_ne_nil (List.ne_nil_of_length_pos hone)
  have hcount : bytes.length = rest.length + 1 := by rw [hbytes, List.length_cons]
  obtain ⟨w, hreceived, hall⟩ := handleAll_dataBytes hopen hinv.cfgWf v rest (by rw [List.length_nil]; omega) hfits
  rw [List.nil_append, ← hbytes] at hreceived
  rw [← hbytes] at hall
  have ht : t = commit w := by
    have hstart : handle .start s = s.openFrame := congrArg State.openFrame (commit_of_idle hidle)
    have hlength := handleAll_byteSymbols (BitVec.ofNat 8 bytes.length) (s := s.openFrame) rfl rfl
    rw [openFrame_cfg] at hlength
    rw [← hall, ← hlength, ← handleAll_append, ← hstart, ← handleAll_cons]
    rfl
  have htail : t.tail = s.writeIndex := by
    rw [ht, commit_tail, hreceived.tail, tail_eq_writeIndex_of_empty hinv hidle hempty]
  obtain ⟨hframes, hnumber, hrecord⟩ := commit_of_received hreceived hinv.cfgWf hone hfits hw
  obtain ⟨-, ⟨hcursor, hskip⟩, -⟩ := commit_keeps_registers w
  have hlater : w.byteCnt ≠ 1 := by
    have := hreceived.count
    bv_omega
  have hslot := hreceived.slot
  rw [dataSlot_of_later hlater, Nat.add_comm] at hslot
  rw [htail, ht, tail_eq_writeIndex_of_empty hinv hidle hempty]
  exact ⟨commit_fip w, hframes, rfl, hnumber, hrecord, hskip.trans hreceived.skip, hcursor.trans hslot⟩

end Sys2Proof
end

section
/-! Proofs for spec/43_ring_buffer.md: the index arithmetic (R210 to R212), `ADVANCE` and `DROP` (R216, R217), the consumer's commands (R221 to
R227) and the chain of records (R230 to R234). -/

namespace Sys2Proof

theorem Cfg.maxLen_add_two {c : Cfg} (h : c.wf = true) : c.maxLen + 2 = c.cap :=
  Nat.sub_add_cancel ((by decide : 2 ≤ 4).trans (Cfg.cap_bounds h).1)

namespace Machine

open Host

/-! ## Differences modulo `CAP` (R212, R214) -/

section Indices

variable {cap : Nat} (hpos : 0 < cap) (hcap : cap ≤ 256)

include hpos hcap

/-- `IDXSUB` is the one distance below `CAP` from `b` to `a`. -/
theorem idxSub_eq_iff {a b : Byte} (ha : a.toNat < cap) (hb : b.toNat < cap) {n : Nat} (hn : n < cap) :
    (idxSub cap a b).toNat = n ↔ idxAdd cap b n = a := by
  refine ⟨fun h => h ▸ idxAdd_idxSub hpos hcap ha hb, fun h => ?_⟩
  have hsame : idxAdd cap b (idxSub cap a b).toNat = idxAdd cap b n := (idxAdd_idxSub hpos hcap ha hb).trans h.symm
  exact ((idxAdd_eq_idxAdd_iff hpos hcap b _ _).mp hsame).eq_of_lt_of_lt (idxSub_lt hpos hcap ha) hn

theorem idxSub_cast {a b : Byte} (ha : a.toNat < cap) (hb : b.toNat < cap) :
    ((idxSub cap a b).toNat : Int) = ((a.toNat : Int) - b.toNat) % cap := by
  have hlt := idxSub_lt hpos hcap (b := b) ha
  have hback : (b.toNat + (idxSub cap a b).toNat) % cap = a.toNat := by
    rw [← idxAdd_toNat hpos hcap, idxAdd_idxSub hpos hcap ha hb]
  have hcast : ((b.toNat : Int) + (idxSub cap a b).toNat) % cap = a.toNat := by exact_mod_cast hback
  rw [← hcast, Int.emod_sub_emod, add_sub_cancel_left, Int.emod_eq_of_lt (by omega) (by omega)]

end Indices

/-! ## Walks over records (R230) -/

theorem chainFrom_zero (c : Cfg) (m : Memory) (a : Byte) : chainFrom c m 0 a = some (a, 0) := rfl

/-- A walk over one record more begins with a written length byte within its bounds. -/
theorem chainFrom_succ_eq_some_iff {c : Cfg} {m : Memory} {n : Nat} {a e : Byte} {t : Nat} :
    chainFrom c m (n + 1) a = some (e, t) ↔
      ∃ len rest, m.read? a.toNat = some len ∧ (1 ≤ len.toNat ∧ len.toNat ≤ c.maxLen) ∧
        chainFrom c m n (idxAdd c.cap a (1 + len.toNat)) = some (e, rest) ∧ t = 1 + len.toNat + rest := by
  rw [chainFrom]
  cases m.read? a.toNat with
  | none => simp
  | some len =>
    by_cases hlen : 1 ≤ len.toNat ∧ len.toNat ≤ c.maxLen
    · cases hnext : chainFrom c m n (idxAdd c.cap a (1 + len.toNat)) with
      | none => simp [hnext]
      | some p => simp [hlen, hnext, Prod.ext_iff, eq_comm]
    · simp [hlen]

/-- Every record has at least two bytes (R232). -/
theorem two_mul_le_of_chainFrom {c : Cfg} {m : Memory} {n : Nat} :
    ∀ {a e : Byte} {t : Nat}, chainFrom c m n a = some (e, t) → 2 * n ≤ t := by
  induction n with
  | zero => exact fun _ => Nat.zero_le _
  | succ n ih =>
    intro a e t h
    obtain ⟨len, rest, -, ⟨hone, -⟩, hnext, rfl⟩ := chainFrom_succ_eq_some_iff.mp h
    have := ih hnext
    omega

/-- One record more at the end of a walk. -/
theorem chainFrom_snoc {c : Cfg} {m : Memory} {len : Byte} (hlen : 1 ≤ len.toNat ∧ len.toNat ≤ c.maxLen) {n : Nat} :
    ∀ {a e : Byte} {t : Nat}, chainFrom c m n a = some (e, t) → m.read? e.toNat = some len →
      chainFrom c m (n + 1) a = some (idxAdd c.cap e (1 + len.toNat), t + (1 + len.toNat)) := by
  induction n with
  | zero =>
    intro a e t h hread
    cases h
    exact chainFrom_succ_eq_some_iff.mpr ⟨len, 0, hread, hlen, rfl, by omega⟩
  | succ n ih =>
    intro a e t h hread
    obtain ⟨first, rest, hfirst, hbounds, hnext, rfl⟩ := chainFrom_succ_eq_some_iff.mp h
    exact chainFrom_succ_eq_some_iff.mpr ⟨first, _, hfirst, hbounds, ih hnext hread, by omega⟩

section Walks

variable {c : Cfg} {m : Memory} (hpos : 0 < c.cap) (hcap : c.cap ≤ 256)

include hpos hcap

/-- A walk over `t` bytes ends `t` bytes after its start. -/
theorem chainFrom_end {n : Nat} : ∀ {a e : Byte} {t : Nat}, a.toNat < c.cap → chainFrom c m n a = some (e, t) →
    idxAdd c.cap a t = e := by
  induction n with
  | zero =>
    intro a e t ha h
    cases h
    exact idxAdd_zero ha
  | succ n ih =>
    intro a e t ha h
    obtain ⟨len, rest, -, -, hnext, rfl⟩ := chainFrom_succ_eq_some_iff.mp h
    rw [← idxAdd_idxAdd hpos hcap]
    exact ih (idxAdd_lt hpos hcap _ _) hnext

/-- A byte written behind the records walked over changes nothing of the walk. -/
theorem chainFrom_write (v : Byte) {n : Nat} : ∀ {a e : Byte} {t k : Nat}, a.toNat < c.cap → chainFrom c m n a = some (e, t) →
    t ≤ k → k < c.cap → chainFrom c (m.write (idxAdd c.cap a k).toNat v) n a = some (e, t) := by
  induction n with
  | zero => exact fun _ h _ _ => h
  | succ n ih =>
    intro a e t k ha h htk hk
    obtain ⟨len, rest, hread, hlen, hnext, rfl⟩ := chainFrom_succ_eq_some_iff.mp h
    have hheader : a ≠ idxAdd c.cap a k := fun heq => by
      have := (idxAdd_eq_self_iff hpos hcap ha (n := k) (by omega) (by omega)).mp heq.symm
      omega
    have hbehind := ih (k := k - (1 + len.toNat)) (idxAdd_lt hpos hcap _ _) hnext (by omega) (by omega)
    rw [idxAdd_idxAdd hpos hcap, Nat.add_sub_of_le (by omega)] at hbehind
    refine chainFrom_succ_eq_some_iff.mpr ⟨len, rest, ?_, hlen, hbehind, rfl⟩
    rw [read?_write_other m v (mt BitVec.eq_of_toNat_eq hheader), hread]

end Walks

/-! ## The chain invariant without the bounds of a frame's declared length

Between a frame's last byte and the `COMMIT` after it, R234's bound on `declared_len` fails; everything else holds there too. -/

/-- The chain invariant but for the bounds on `declared_len`. -/
structure ChainInv (s : State) : Prop where
  cfgWf : s.cfg.wf = true
  ringWf : s.ring.wf s.cfg.cap = true
  indices : s.indicesInRange
  chain : s.chained
  cursor : s.cursorPlaced
  count : s.byteCnt.toNat ≤ s.cfg.cap - 1

/-- R234 on a frame whose length byte has arrived. -/
def State.declaredBounded (s : State) : Prop :=
  s.fip = true → 1 ≤ s.byteCnt.toNat → s.byteCnt.toNat ≤ s.declaredLen.toNat ∧ s.declaredLen.toNat ≤ s.cfg.maxLen

theorem ringInv_iff (s : State) : RingInv s ↔ ChainInv s ∧ s.declaredBounded :=
  ⟨fun h => ⟨⟨h.cfgWf, h.ringWf, h.indices, h.chain, h.cursor, h.counts.1⟩, h.counts.2⟩,
    fun ⟨h, hdeclared⟩ => ⟨h.cfgWf, h.ringWf, h.indices, h.chain, h.cursor, h.count, hdeclared⟩⟩

theorem RingInv.chainInv {s : State} (h : RingInv s) : ChainInv s := ((ringInv_iff s).mp h).1

/-- Outside a frame there is no declared length to bound. -/
theorem ChainInv.ringInv_of_idle {s : State} (h : ChainInv s) (hidle : s.fip = false) : RingInv s :=
  (ringInv_iff s).mpr ⟨h, fun hfip => absurd hfip (Bool.eq_false_iff.mp hidle)⟩

/-- The invariant speaks of the receiver alone. -/
theorem ringInv_receiver_iff (s : State) : RingInv s.receiver ↔ RingInv s :=
  ⟨fun h => ⟨h.cfgWf, h.ringWf, h.indices, h.chain, h.cursor, h.counts⟩,
    fun h => ⟨h.cfgWf, h.ringWf, h.indices, h.chain, h.cursor, h.counts⟩⟩

theorem ringInv_of_receiver_eq {s t : State} (h : t.receiver = s.receiver) (hs : RingInv s) : RingInv t := by
  rw [← ringInv_receiver_iff, h, ringInv_receiver_iff]
  exact hs

/-! ## Where the frame in progress stands (R230 c, d) -/

theorem chainEnd_of_idle {s : State} (h : s.fip = false) : s.chainEnd = s.writeIndex :=
  if_neg (Bool.eq_false_iff.mp h)

theorem chainEnd_of_inFrame {s : State} (h : s.fip = true) : s.chainEnd = s.frameStart := if_pos h

theorem claimed_of_idle {s : State} (h : s.fip = false) : s.claimed = 0 :=
  if_neg fun hframe => Bool.eq_false_iff.mp h hframe.1

theorem claimed_of_no_data {s : State} (h : s.byteCnt.toNat < 2) : s.claimed = 0 :=
  if_neg fun hframe => Nat.not_le.mpr h hframe.2

theorem claimed_of_data {s : State} (hfip : s.fip = true) (h : 2 ≤ s.byteCnt.toNat) : s.claimed = s.byteCnt.toNat :=
  if_pos ⟨hfip, h⟩

/-- What the frame has claimed and what its next byte claims are the bytes up to and with that byte (R193). -/
theorem claimed_add_dataClaims {s : State} (hfip : s.fip = true) (hcnt : s.byteCnt ≠ 0) :
    s.claimed + s.dataClaims = s.byteCnt.toNat + 1 := by
  rw [State.dataClaims]
  split
  next hfirst => rw [claimed_of_no_data (by rw [hfirst]; decide), hfirst]; rfl
  next hlater => rw [claimed_of_data hfip (by bv_omega)]

/-- A cursor that stands where R230 c places it is the claimed bytes after the end of the chain. -/
theorem idxAdd_chainEnd_claimed {s : State} (hindices : s.indicesInRange) (hcursor : s.cursorPlaced) :
    idxAdd s.cfg.cap s.chainEnd s.claimed = s.writeIndex := by
  obtain ⟨hw, -, hstart, -⟩ := hindices
  cases hfip : s.fip with
  | false => rw [chainEnd_of_idle hfip, claimed_of_idle hfip, idxAdd_zero hw]
  | true =>
    rw [chainEnd_of_inFrame hfip, hcursor hfip]
    split
    next hdata => rw [claimed_of_data hfip hdata]
    next hnone => rw [claimed_of_no_data (Nat.not_le.mp hnone), idxAdd_zero hstart]

/-- For the chain it is enough that the walk ends where it should and leaves a byte free: `distance` then counts its bytes. -/
theorem chained_of_chainFrom {s : State} (hwf : s.cfg.wf = true) (hindices : s.indicesInRange) (hcursor : s.cursorPlaced)
    {total : Nat} (hchain : chainFrom s.cfg s.ring s.framesBuffered.toNat s.tail = some (s.chainEnd, total))
    (hfits : total + s.claimed < s.cfg.cap) : s.chained := by
  obtain ⟨hpos, hcap⟩ := Cfg.cap_pos_le hwf
  have hwrite : idxAdd s.cfg.cap s.tail (total + s.claimed) = s.writeIndex := by
    rw [← idxAdd_idxAdd hpos hcap, chainFrom_end hpos hcap (tail_lt hwf) hchain, idxAdd_chainEnd_claimed hindices hcursor]
  exact ⟨total, hchain, (idxSub_eq_iff hpos hcap hindices.1 (tail_lt hwf) hfits).mpr hwrite, Nat.le_sub_one_of_lt hfits⟩

/-- The records' bytes and the frame's, and one more, fit the ring. -/
theorem ChainInv.chainFrom_fits {s : State} (h : ChainInv s) :
    ∃ total, chainFrom s.cfg s.ring s.framesBuffered.toNat s.tail = some (s.chainEnd, total) ∧
      total + s.claimed < s.cfg.cap := by
  obtain ⟨total, hchain, -, hfits⟩ := h.chain
  exact ⟨total, hchain, Nat.lt_of_le_pred (Cfg.cap_pos_le h.cfgWf).1 hfits⟩

theorem ChainInv.distance_lt {s : State} (h : ChainInv s) : s.distance.toNat < s.cfg.cap := by
  obtain ⟨hpos, hcap⟩ := Cfg.cap_pos_le h.cfgWf
  exact idxSub_lt hpos hcap h.indices.1

/-- `distance` counts at least two bytes for each record (R232). -/
theorem ChainInv.framesBuffered_le {s : State} (h : ChainInv s) : 2 * s.framesBuffered.toNat + s.claimed ≤ s.distance.toNat := by
  obtain ⟨total, hchain, hdist, -⟩ := h.chain
  have := two_mul_le_of_chainFrom hchain
  omega

/-! ## The oldest record goes (R217, R224) -/

/-- The walk begins with the record at `tail`. -/
theorem ChainInv.oldest {s : State} (h : ChainInv s) (hbuf : s.framesBuffered ≠ 0) :
    ∃ rest, chainFrom s.cfg s.ring (s.framesBuffered - 1).toNat (idxAdd s.cfg.cap s.tail (1 + (s.ringByte s.tail).toNat)) =
        some (s.chainEnd, rest) ∧
      s.distance.toNat = 1 + (s.ringByte s.tail).toNat + rest + s.claimed ∧ 1 ≤ (s.ringByte s.tail).toNat := by
  obtain ⟨total, hchain, hdist, -⟩ := h.chain
  have hcount : s.framesBuffered.toNat = (s.framesBuffered - 1).toNat + 1 := by bv_omega
  rw [hcount] at hchain
  obtain ⟨len, rest, hread, ⟨hone, -⟩, hrest, rfl⟩ := chainFrom_succ_eq_some_iff.mp hchain
  have hlen : s.ringByte s.tail = len := by rw [State.ringByte, Nat.mod_eq_of_lt (tail_lt h.cfgWf), hread, Option.getD_some]
  rw [hlen]
  exact ⟨rest, hrest, hdist, hone⟩

/-- `t` is `s` without the oldest record, whichever cursors moved `tail`. -/
structure WithoutOldest (s t : State) : Prop where
  cfg : t.cfg = s.cfg
  ring : t.ring = s.ring
  fip : t.fip = s.fip
  byteCnt : t.byteCnt = s.byteCnt
  declaredLen : t.declaredLen = s.declaredLen
  frameStart : t.frameStart = s.frameStart
  writeIndex : t.writeIndex = s.writeIndex
  framesBuffered : t.framesBuffered = s.framesBuffered - 1
  tail : t.tail = idxAdd s.cfg.cap s.tail (1 + (s.ringByte s.tail).toNat)
  indices : t.indicesInRange

namespace WithoutOldest

variable {s t : State} (h : WithoutOldest s t)

include h

theorem chainEnd : t.chainEnd = s.chainEnd := by
  rw [State.chainEnd, h.fip, h.frameStart, h.writeIndex, State.chainEnd]

theorem claimed : t.claimed = s.claimed := by
  rw [State.claimed, h.fip, h.byteCnt, State.claimed]

variable (hinv : RingInv s) (hbuf : s.framesBuffered ≠ 0)

include hinv hbuf

theorem ringInv : RingInv t := by
  obtain ⟨rest, hrest, hdist, -⟩ := hinv.chainInv.oldest hbuf
  have hlt := hinv.chainInv.distance_lt
  have hwf : t.cfg.wf = true := by rw [h.cfg]; exact hinv.cfgWf
  have hcursor : t.cursorPlaced := by
    rw [State.cursorPlaced, h.fip, h.writeIndex, h.byteCnt, h.cfg, h.frameStart]
    exact hinv.cursor
  have hchain : chainFrom t.cfg t.ring t.framesBuffered.toNat t.tail = some (t.chainEnd, rest) := by
    rw [h.cfg, h.ring, h.framesBuffered, h.tail, h.chainEnd]
    exact hrest
  exact {
    cfgWf := hwf
    ringWf := by rw [h.ring, h.cfg]; exact hinv.ringWf
    indices := h.indices
    chain := chained_of_chainFrom hwf h.indices hcursor hchain (by rw [h.claimed, h.cfg]; omega)
    cursor := hcursor
    counts := by
      rw [State.countsBounded, h.byteCnt, h.cfg, h.fip, h.declaredLen]
      exact hinv.counts }

/-- A record has at least two bytes, so at least that many become free. -/
theorem distance_add_two_le : t.distance.toNat + 2 ≤ s.distance.toNat := by
  obtain ⟨rest, hrest, hdist, hone⟩ := hinv.chainInv.oldest hbuf
  obtain ⟨total, hchain, hdist', -⟩ := (h.ringInv hinv hbuf).chain
  rw [h.cfg, h.ring, h.framesBuffered, h.tail, hrest, Option.some.injEq, Prod.mk.injEq] at hchain
  rw [hdist', hdist, ← hchain.2, h.claimed]
  omega

end WithoutOldest

theorem drop_withoutOldest {s : State} (hinv : RingInv s) : WithoutOldest s (drop s) where
  cfg := rfl
  ring := rfl
  fip := rfl
  byteCnt := rfl
  declaredLen := rfl
  frameStart := rfl
  writeIndex := rfl
  framesBuffered := rfl
  tail := by
    obtain ⟨-, -, -, hskip, hack⟩ := hinv.indices
    exact setDropped_tail hinv.cfgWf hskip hack _ _
  indices := by
    obtain ⟨hw, hread, hstart, -, hack⟩ := hinv.indices
    obtain ⟨hpos, hcap⟩ := Cfg.cap_pos_le hinv.cfgWf
    exact ⟨hw, hread, hstart, idxAdd_lt hpos hcap _ _, hack⟩

/-- With no drop unseen, the record at `read_index` that `REL` releases is the oldest one. -/
theorem setReleased_withoutOldest {s : State} (hinv : RingInv s) (hseen : s.dropSkip = s.dropAck) :
    WithoutOldest s (s.setReleased (idxAdd s.cfg.cap s.readIndex (1 + (s.ringByte s.readIndex).toNat)) (s.framesBuffered - 1)) where
  cfg := rfl
  ring := rfl
  fip := rfl
  byteCnt := rfl
  declaredLen := rfl
  frameStart := rfl
  writeIndex := rfl
  framesBuffered := rfl
  tail := by
    obtain ⟨-, hread, -⟩ := hinv.indices
    obtain ⟨hpos, hcap⟩ := Cfg.cap_pos_le hinv.cfgWf
    rw [tail_eq_readIndex hseen.symm hread]
    exact tail_eq_readIndex (s := s.setReleased _ _) hseen.symm (idxAdd_lt hpos hcap _ _)
  indices := by
    obtain ⟨hw, -, hstart, hskip, hack⟩ := hinv.indices
    obtain ⟨hpos, hcap⟩ := Cfg.cap_pos_le hinv.cfgWf
    exact ⟨hw, idxAdd_lt hpos hcap _ _, hstart, hskip, hack⟩

/-! ## A data byte extends the frame (R190, R193) -/

theorem counted_of_room {s : State} (h : ¬s.dataDrops) (v : Byte) : s.counted v =
    (((s.setShift v 0).writeRing s.dataSlot v).setWriteIndex (idxInc s.cfg.cap s.dataSlot)).setByteCnt (s.byteCnt + 1) :=
  congrArg (State.setByteCnt · _) (stored_of_no_drop (s := s.setShift v 0) h v)

/-- After a drop the claims of a data byte do not reach `tail` any more. -/
theorem not_dataDrops_drop {s : State} (hinv : RingInv s) (h : s.dataDrops) : ¬(drop s).dataDrops := by
  rintro ⟨-, hagain⟩
  have hfreed := (drop_withoutOldest hinv).distance_add_two_le hinv h.1
  have hlt := hinv.chainInv.distance_lt
  have hclaims : s.dataClaims ≤ 2 := by rw [State.dataClaims]; split <;> decide
  have hsame : s.cfg.cap ≤ (drop s).distance.toNat + s.dataClaims := hagain
  omega

/-- So a data byte that drops a record is one stored after the drop. -/
theorem counted_of_drop {s : State} (hinv : RingInv s) (h : s.dataDrops) (v : Byte) : s.counted v = (drop s).counted v := by
  have hdrop : (s.setShift v 0).stored v = _ := stored_of_drop (s := s.setShift v 0) h v
  rw [counted_of_room (not_dataDrops_drop hinv h), State.counted, hdrop]
  rfl

section DataByte

variable {s : State} (hinv : RingInv s) (hfip : s.fip = true) (hcnt : s.byteCnt ≠ 0)

include hinv hfip hcnt

/-- A data byte that drops nothing leaves a byte free: either the claims do not reach `tail`, or the ring is empty and the frame short enough. -/
theorem distance_add_dataClaims_lt (h : ¬s.dataDrops) : s.distance.toNat + s.dataClaims < s.cfg.cap := by
  by_cases hempty : s.framesBuffered = 0
  · obtain ⟨total, hchain, hdist, -⟩ := hinv.chain
    rw [hempty] at hchain
    have hnone : total = 0 := (Prod.mk.inj (Option.some.inj hchain)).2.symm
    obtain ⟨hdeclared, hmax⟩ := hinv.counts.2 hfip (by bv_omega)
    have hframe := claimed_add_dataClaims hfip hcnt
    have hlen := Cfg.maxLen_add_two hinv.cfgWf
    omega
  · exact Nat.not_le.mp fun hfull => h ⟨hempty, hfull⟩

theorem counted_byteCnt_toNat (v : Byte) : (s.counted v).byteCnt.toNat = s.byteCnt.toNat + 1 := by
  obtain ⟨hdeclared, hmax⟩ := hinv.counts.2 hfip (by bv_omega)
  have hlen := Cfg.maxLen_add_two hinv.cfgWf
  obtain ⟨-, hcap⟩ := Cfg.cap_pos_le hinv.cfgWf
  rw [counted_byteCnt]
  bv_omega

/-- With its data byte the frame has claimed the header slot and every byte up to that one. -/
theorem counted_claimed (v : Byte) : (s.counted v).claimed = s.byteCnt.toNat + 1 := by
  have hcount := counted_byteCnt_toNat hinv hfip hcnt v
  have hone : 1 ≤ s.byteCnt.toNat := by bv_omega
  rw [claimed_of_data (s := s.counted v) hfip (by omega), hcount]

theorem counted_cursorPlaced (v : Byte) : (s.counted v).cursorPlaced := by
  intro _
  obtain ⟨hpos, hcap⟩ := Cfg.cap_pos_le hinv.cfgWf
  have hcount := counted_byteCnt_toNat hinv hfip hcnt v
  have hone : 1 ≤ s.byteCnt.toNat := by bv_omega
  rw [if_pos (by omega), hcount, counted_writeIndex, dataSlot_eq hinv hfip hcnt, idxInc_idxAdd hpos hcap, counted_cfg,
    counted_frameStart]

theorem counted_chainInv_of_room (h : ¬s.dataDrops) (v : Byte) : ChainInv (s.counted v) := by
  obtain ⟨hpos, hcap⟩ := Cfg.cap_pos_le hinv.cfgWf
  obtain ⟨-, hread, hstart, hskip, hack⟩ := hinv.indices
  obtain ⟨total, hchain, hdist, -⟩ := hinv.chain
  have hroom := distance_add_dataClaims_lt hinv hfip hcnt h
  have hframe := claimed_add_dataClaims hfip hcnt
  have hcount := counted_byteCnt_toNat hinv hfip hcnt v
  have hcursor := counted_cursorPlaced hinv hfip hcnt v
  have hslot : s.dataSlot.toNat % s.cfg.cap = (idxAdd s.cfg.cap s.tail (total + s.byteCnt.toNat)).toNat := by
    rw [Nat.mod_eq_of_lt (dataSlot_lt hinv hfip hcnt), dataSlot_eq hinv hfip hcnt, ← idxAdd_idxAdd hpos hcap,
      chainFrom_end hpos hcap (tail_lt hinv.cfgWf) hchain, chainEnd_of_inFrame hfip]
  have hwalk : chainFrom s.cfg (s.counted v).ring (s.counted v).framesBuffered.toNat (s.counted v).tail =
      some ((s.counted v).chainEnd, total) := by
    have hbehind := chainFrom_write hpos hcap v (tail_lt hinv.cfgWf) hchain (k := total + s.byteCnt.toNat) (by omega) (by omega)
    have hend : (s.counted v).chainEnd = s.chainEnd := by
      rw [chainEnd_of_inFrame (s := s.counted v) hfip, chainEnd_of_inFrame hfip, counted_frameStart]
    rw [← hslot] at hbehind
    rw [hend, counted_of_room h v]
    exact hbehind
  have hindices : (s.counted v).indicesInRange := by
    rw [State.indicesInRange, counted_dropSkip, if_neg h]
    exact ⟨idxInc_lt hpos hcap (i := s.dataSlot) (dataSlot_lt hinv hfip hcnt), hread, hstart, hskip, hack⟩
  exact {
    cfgWf := hinv.cfgWf
    ringWf := by
      rw [counted_of_room h v]
      exact writeRing_wf _ v hinv.ringWf hpos
    indices := hindices
    chain := by
      refine chained_of_chainFrom hinv.cfgWf hindices hcursor hwalk ?_
      rw [counted_claimed hinv hfip hcnt, counted_cfg]
      omega
    cursor := hcursor
    count := by
      rw [hcount, counted_cfg]
      omega }

theorem counted_chainInv (v : Byte) : ChainInv (s.counted v) := by
  by_cases hdrops : s.dataDrops
  · rw [counted_of_drop hinv hdrops]
    exact counted_chainInv_of_room ((drop_withoutOldest hinv).ringInv hinv hdrops.1) hfip hcnt (not_dataDrops_drop hinv hdrops) v
  · exact counted_chainInv_of_room hinv hfip hcnt hdrops v

/-- A byte that is not the last one stays within the declared length (R234). -/
theorem counted_ringInv (hmore : s.byteCnt ≠ s.declaredLen) (v : Byte) : RingInv (s.counted v) := by
  refine (ringInv_iff _).mpr ⟨counted_chainInv hinv hfip hcnt v, fun _ _ => ?_⟩
  obtain ⟨hdeclared, hmax⟩ := hinv.counts.2 hfip (by bv_omega)
  rw [counted_byteCnt, counted_declaredLen, counted_cfg]
  exact ⟨by bv_omega, hmax⟩

end DataByte

/-! ## `COMMIT` makes the frame a record (42_frame_assembler R194) -/

/-- A frame without data bytes goes without a trace: nothing has been claimed for it. -/
theorem clearFip_chainInv {s : State} (h : ChainInv s) (hfip : s.fip = true) (hnone : s.byteCnt.toNat < 2) :
    ChainInv s.clearFip := by
  obtain ⟨total, hchain, hfits⟩ := h.chainFrom_fits
  have hend : s.chainEnd = s.clearFip.chainEnd := by
    rw [chainEnd_of_inFrame hfip, chainEnd_of_idle (clearFip_fip s), clearFip_writeIndex, h.cursor hfip,
      if_neg (Nat.not_le.mpr hnone)]
  have hcursor : s.clearFip.cursorPlaced := fun hopen => absurd hopen Bool.false_ne_true
  rw [claimed_of_no_data hnone] at hfits
  exact ⟨h.cfgWf, h.ringWf, h.indices, chained_of_chainFrom (s := s.clearFip) h.cfgWf h.indices hcursor (hend ▸ hchain) hfits,
    hcursor, h.count⟩

/-- A frame with data bytes becomes the youngest record: its header slot is the end of the chain, and its length byte leads to `write_index`. -/
theorem recorded_chainInv {s : State} (h : ChainInv s) (hfip : s.fip = true) (hdata : 2 ≤ s.byteCnt.toNat) :
    ChainInv ((s.clearFip.writeRing s.frameStart (s.byteCnt - 1)).setFrames (s.framesBuffered + 1)) := by
  obtain ⟨hpos, hcap⟩ := Cfg.cap_pos_le h.cfgWf
  obtain ⟨-, -, hstart, -⟩ := h.indices
  obtain ⟨total, hchain, hfits⟩ := h.chainFrom_fits
  rw [claimed_of_data hfip hdata] at hfits
  rw [chainEnd_of_inFrame hfip] at hchain
  have hframes : (s.framesBuffered + 1).toNat = s.framesBuffered.toNat + 1 := by
    have := two_mul_le_of_chainFrom hchain
    bv_omega
  have hlen : 1 + (s.byteCnt - 1).toNat = s.byteCnt.toNat := by bv_omega
  have hbounds : 1 ≤ (s.byteCnt - 1).toNat ∧ (s.byteCnt - 1).toNat ≤ s.cfg.maxLen := by
    have := Cfg.maxLen_add_two h.cfgWf
    omega
  have hheader : idxAdd s.cfg.cap s.tail total = s.frameStart := chainFrom_end hpos hcap (tail_lt h.cfgWf) hchain
  have hwalk : chainFrom s.cfg (s.ring.write s.frameStart.toNat (s.byteCnt - 1)) (s.framesBuffered.toNat + 1) s.tail =
      some (s.writeIndex, total + s.byteCnt.toNat) := by
    have hkept := chainFrom_write hpos hcap (s.byteCnt - 1) (tail_lt h.cfgWf) hchain le_rfl (by omega)
    rw [hheader] at hkept
    have hlonger := chainFrom_snoc hbounds hkept (read?_write_same _ _ _)
    have hcursor := h.cursor hfip
    rw [if_pos hdata] at hcursor
    rwa [hlen, ← hcursor] at hlonger
  have hring : s.ring.write (s.frameStart.toNat % s.cfg.cap) (s.byteCnt - 1) = s.ring.write s.frameStart.toNat (s.byteCnt - 1) := by
    rw [Nat.mod_eq_of_lt hstart]
  rw [← hframes, ← hring] at hwalk
  have hcursor : ((s.clearFip.writeRing s.frameStart (s.byteCnt - 1)).setFrames (s.framesBuffered + 1)).cursorPlaced :=
    fun hopen => absurd hopen Bool.false_ne_true
  exact ⟨h.cfgWf, writeRing_wf _ _ h.ringWf hpos, h.indices, chained_of_chainFrom h.cfgWf h.indices hcursor hwalk hfits, hcursor,
    h.count⟩

theorem commit_ringInv {s : State} (h : ChainInv s) : RingInv (commit s) := by
  refine ChainInv.ringInv_of_idle ?_ (commit_fip s)
  obtain ⟨-, e⟩ | ⟨hfip, hnone, e⟩ | ⟨hfip, hdata, e⟩ := commit_cases s <;> rw [e]
  · exact h
  · exact clearFip_chainInv h hfip hnone
  · exact recorded_chainInv h hfip hdata

/-! ## Symbols (42_frame_assembler R184 to R190) -/

/-- A START opens its frame at the end of the chain. -/
theorem openFrame_ringInv {s : State} (h : RingInv s) (hidle : s.fip = false) : RingInv s.openFrame := by
  obtain ⟨hpos, -⟩ := Cfg.cap_pos_le h.cfgWf
  obtain ⟨hw, hread, -, hskip, hack⟩ := h.indices
  obtain ⟨total, hchain, hfits⟩ := h.chainInv.chainFrom_fits
  have hindices : s.openFrame.indicesInRange := ⟨hw, hread, hw, hskip, hack⟩
  have hcursor : s.openFrame.cursorPlaced := fun _ => rfl
  rw [chainEnd_of_idle hidle] at hchain
  rw [claimed_of_idle hidle] at hfits
  exact ⟨h.cfgWf, h.ringWf, hindices, chained_of_chainFrom (s := s.openFrame) h.cfgWf hindices hcursor hchain hfits, hcursor,
    Nat.zero_le _, fun _ hbyte => absurd hbyte (Nat.not_succ_le_zero 0)⟩

/-- The length byte claims no ring byte, whether it is accepted or not. -/
theorem setDeclared_chainInv {s : State} (h : ChainInv s) (hcnt : s.byteCnt = 0) (v : Byte) : ChainInv (s.setDeclared v) := by
  have hzero : s.byteCnt.toNat < 2 := by rw [hcnt]; decide
  obtain ⟨total, hchain, hfits⟩ := h.chainFrom_fits
  have hcursor : (s.setDeclared v).cursorPlaced := fun hfip => by
    have hplaced := h.cursor hfip
    rwa [if_neg (Nat.not_le.mpr hzero)] at hplaced
  have hclaimed : (s.setDeclared v).claimed = 0 := claimed_of_no_data Nat.one_lt_two
  have hfour := (Cfg.cap_bounds h.cfgWf).1
  rw [claimed_of_no_data hzero, ← hclaimed] at hfits
  exact ⟨h.cfgWf, h.ringWf, h.indices, chained_of_chainFrom (s := s.setDeclared v) h.cfgWf h.indices hcursor hchain hfits, hcursor,
    (by decide : 1 ≤ 4 - 1).trans (Nat.sub_le_sub_right hfour 1)⟩

theorem setShift_ringInv {s : State} (h : RingInv s) (acc : Byte) (n : BitVec 3) : RingInv (s.setShift acc n) :=
  ⟨h.cfgWf, h.ringWf, h.indices, h.chain, h.cursor, h.counts⟩

/-- Under the invariant a bit in a frame is shifted in, or ends the length byte, or ends a data byte, the last one or not. -/
theorem pushBit_cases_of_inv {s : State} (hinv : RingInv s) (b : Bool) :
    (∃ acc n, pushBit b s = s.setShift acc n) ∨
    (∃ v, s.byteCnt = 0 ∧ pushBit b s = commit ((s.setShift v 0).setDeclared v)) ∨
    (∃ v : Byte, s.byteCnt = 0 ∧ v ≠ 0 ∧ v.toNat ≤ s.cfg.maxLen ∧ pushBit b s = (s.setShift v 0).setDeclared v) ∨
    (∃ v, s.byteCnt ≠ 0 ∧ pushBit b s = commit (s.counted v)) ∨
    (∃ v, s.byteCnt ≠ 0 ∧ s.byteCnt ≠ s.declaredLen ∧ pushBit b s = s.counted v) := by
  obtain ⟨-, hpush⟩ | ⟨-, hpush⟩ := pushBit_cases b s
  · generalize shiftIn s.cfg.bitOrder s.bitAcc b = v at hpush
    have hstore := storeByte_eq_stored (setShift_ringInv hinv v 0) v
    obtain ⟨hcnt, -, h⟩ | ⟨hcnt, hpos, hmax, h⟩ | ⟨hcnt, hlast, -⟩ | ⟨hcnt, hmore, -⟩ := byteReceived_cases v (s.setShift v 0)
    · exact .inr (.inl ⟨v, hcnt, hpush.trans h⟩)
    · exact .inr (.inr (.inl ⟨v, hcnt, hpos, hmax, hpush.trans h⟩))
    · exact .inr (.inr (.inr (.inl ⟨v, hcnt, hpush.trans (byteReceived_last hstore hcnt hlast)⟩)))
    · exact .inr (.inr (.inr (.inr ⟨v, hcnt, hmore, hpush.trans (byteReceived_more hstore hcnt hmore)⟩)))
  · exact .inl ⟨_, _, hpush⟩

theorem pushBit_ringInv {s : State} (hinv : RingInv s) (hfip : s.fip = true) (b : Bool) : RingInv (pushBit b s) := by
  have hdeclared (v : Byte) (hcnt : s.byteCnt = 0) : ChainInv ((s.setShift v 0).setDeclared v) :=
    setDeclared_chainInv (setShift_ringInv hinv v 0).chainInv hcnt v
  obtain ⟨acc, n, h⟩ | ⟨v, hcnt, h⟩ | ⟨v, hcnt, hpos, hmax, h⟩ | ⟨v, hcnt, h⟩ | ⟨v, hcnt, hmore, h⟩ :=
    pushBit_cases_of_inv hinv b <;> rw [h]
  · exact setShift_ringInv hinv acc n
  · exact commit_ringInv (hdeclared v hcnt)
  · have hone : 1 ≤ v.toNat := by bv_omega
    exact (ringInv_iff _).mpr ⟨hdeclared v hcnt, fun _ _ => ⟨hone, hmax⟩⟩
  · exact commit_ringInv (counted_chainInv hinv hfip hcnt v)
  · exact counted_ringInv hinv hfip hcnt hmore v

theorem symbolBit_ringInv {s : State} (hinv : RingInv s) (b : Bool) : RingInv (symbolBit b s) := by
  obtain ⟨hfip, h⟩ | ⟨-, h⟩ := symbolBit_cases b s <;> rw [h]
  · exact pushBit_ringInv hinv hfip b
  · exact hinv

theorem handle_ringInv {s : State} (hinv : RingInv s) (y : Symbol) : RingInv (handle y s) :=
  match y with
  | .start => openFrame_ringInv (commit_ringInv hinv.chainInv) (commit_fip s)
  | .one => symbolBit_ringInv hinv true
  | .zero => symbolBit_ringInv hinv false
  | .noise => commit_ringInv hinv.chainInv

/-! ## Every operation keeps the chain (R230) -/

theorem setLastEdge_ringInv {s : State} (h : RingInv s) (t : Stamp) : RingInv (s.setLastEdge t) :=
  ⟨h.cfgWf, h.ringWf, h.indices, h.chain, h.cursor, h.counts⟩

theorem respond_ringInv {s : State} (h : RingInv s) (rc : ReturnCode) (d : Byte) : RingInv (s.respond rc d) :=
  ringInv_of_receiver_eq (s := s) rfl h

theorem silent_ringInv {s : State} (h : RingInv s) : RingInv s.silent := ringInv_of_receiver_eq (s := s) rfl h

/-- An `ACQ` changes how `tail` is held, not where it is (R222). -/
theorem setReader_ringInv {s : State} (h : RingInv s) : RingInv (s.setReader s.tail s.dropSkip) := by
  obtain ⟨hw, -, hstart, hskip, -⟩ := h.indices
  have hchain : (s.setReader s.tail s.dropSkip).chained := by
    rw [State.chained, State.distance, setReader_tail h.cfgWf]
    exact h.chain
  exact ⟨h.cfgWf, h.ringWf, ⟨hw, tail_lt h.cfgWf, hstart, hskip, hskip⟩, hchain, h.cursor, h.counts⟩

/-- After `RST` the ring is empty and no frame is in progress (70_reset R300). -/
theorem clearReceiver_ringInv {s : State} (hwf : s.cfg.wf = true) : RingInv s.clearReceiver := by
  obtain ⟨hpos, -⟩ := Cfg.cap_pos_le hwf
  have hindices : s.clearReceiver.indicesInRange := ⟨hpos, hpos, hpos, hpos, hpos⟩
  have hcursor : s.clearReceiver.cursorPlaced := fun hopen => absurd hopen Bool.false_ne_true
  have htail : s.clearReceiver.tail = 0 := tail_eq_readIndex (s := s.clearReceiver) rfl hpos
  have hwalk : chainFrom s.cfg [] 0 s.clearReceiver.tail = some (0, 0) := by rw [htail, chainFrom_zero]
  exact ⟨hwf, rfl, hindices, chained_of_chainFrom (s := s.clearReceiver) hwf hindices hcursor hwalk hpos, hcursor, Nat.zero_le _,
    fun hopen => absurd hopen Bool.false_ne_true⟩

theorem exec_keeps_ringInv {i : Instr} {s t : State} (hinv : RingInv s) (h : exec i s = .next t) : RingInv t := by
  cases i with
  | edge u => cases h; exact silent_ringInv (handle_ringInv (setLastEdge_ringInv hinv u) _)
  | symStart => cases h; exact silent_ringInv (handle_ringInv hinv .start)
  | symOne => cases h; exact silent_ringInv (handle_ringInv hinv .one)
  | symZero => cases h; exact silent_ringInv (handle_ringInv hinv .zero)
  | symNoise => cases h; exact silent_ringInv (handle_ringInv hinv .noise)
  | nop _ => cases h; exact respond_ringInv hinv _ _
  | stat _ => cases h; exact respond_ringInv hinv _ _
  | acq a =>
    obtain ⟨-, e⟩ | ⟨-, e⟩ := exec_acq_cases a s <;> cases e.symm.trans h
    · exact respond_ringInv hinv _ _
    · exact respond_ringInv (setReader_ringInv hinv) _ _
  | rdb _ => cases h; exact respond_ringInv hinv _ _
  | rel a =>
    obtain ⟨-, e⟩ | ⟨-, -, e⟩ | ⟨hseen, hbuf, e⟩ := exec_rel_cases a s <;> cases e.symm.trans h
    · exact respond_ringInv hinv _ _
    · exact respond_ringInv hinv _ _
    · exact respond_ringInv ((setReleased_withoutOldest hinv hseen).ringInv hinv hbuf) _ _
  | tmo a =>
    obtain ⟨-, e⟩ | ⟨-, e⟩ := exec_tmo_cases a s <;> cases e.symm.trans h
    · exact respond_ringInv (commit_ringInv hinv.chainInv) _ _
    · exact respond_ringInv hinv _ _
  | rst _ => cases h; exact respond_ringInv (clearReceiver_ringInv hinv.cfgWf) _ _

/-! ## At most one drop by a symbol (R216) -/

/-- From `s` to `t` no record is dropped, or the oldest one is. -/
def State.dropsAtMostOldest (s t : State) : Prop :=
  t.dropSkip = s.dropSkip ∨
    (s.framesBuffered ≠ 0 ∧ t.dropSkip = idxAdd s.cfg.cap s.dropSkip (1 + (s.ringByte s.tail).toNat))

theorem commit_dropSkip (s : State) : (commit s).dropSkip = s.dropSkip := by
  obtain ⟨-, ⟨-, hskip⟩, -⟩ := commit_keeps_registers s
  exact hskip

theorem counted_dropsAtMostOldest (s : State) (v : Byte) : s.dropsAtMostOldest (s.counted v) := by
  rw [State.dropsAtMostOldest, counted_dropSkip]
  split
  next hdrops => exact .inr ⟨hdrops.1, rfl⟩
  next => exact .inl rfl

theorem symbolBit_dropsAtMostOldest {s : State} (hinv : RingInv s) (b : Bool) : s.dropsAtMostOldest (symbolBit b s) := by
  obtain ⟨-, h⟩ | ⟨-, h⟩ := symbolBit_cases b s <;> rw [h]
  · obtain ⟨acc, n, h⟩ | ⟨v, -, h⟩ | ⟨v, -, -, -, h⟩ | ⟨v, -, h⟩ | ⟨v, -, -, h⟩ := pushBit_cases_of_inv hinv b <;> rw [h]
    · exact .inl rfl
    · exact .inl (commit_dropSkip _)
    · exact .inl rfl
    · rw [State.dropsAtMostOldest, commit_dropSkip]
      exact counted_dropsAtMostOldest s v
    · exact counted_dropsAtMostOldest s v
  · exact .inl rfl

theorem handle_dropsAtMostOldest {s : State} (hinv : RingInv s) (y : Symbol) : s.dropsAtMostOldest (handle y s) :=
  match y with
  | .start => .inl (commit_dropSkip s)
  | .one => symbolBit_dropsAtMostOldest hinv true
  | .zero => symbolBit_dropsAtMostOldest hinv false
  | .noise => .inl (commit_dropSkip s)

/-! ## The reading commands (R221 to R227) -/

/-- All that the five reading commands write between them. -/
theorem exec_reader_writes {i : Instr} {s t : State} (hi : ∃ a, i = .nop a ∨ i = .stat a ∨ i = .acq a ∨ i = .rdb a ∨ i = .rel a)
    (h : exec i s = .next t) :
    ∃ read ack frames r, t = { s with readIndex := read, dropAck := ack, framesBuffered := frames, rsp := r } := by
  obtain ⟨a, rfl | rfl | rfl | rfl | rfl⟩ := hi
  · cases h; exact ⟨_, _, _, _, rfl⟩
  · cases h; exact ⟨_, _, _, _, rfl⟩
  · obtain ⟨-, e⟩ | ⟨-, e⟩ := exec_acq_cases a s <;> cases e.symm.trans h <;> exact ⟨_, _, _, _, rfl⟩
  · cases h; exact ⟨_, _, _, _, rfl⟩
  · obtain ⟨-, e⟩ | ⟨-, -, e⟩ | ⟨-, -, e⟩ := exec_rel_cases a s <;> cases e.symm.trans h <;> exact ⟨_, _, _, _, rfl⟩

theorem exec_rel_of_dropped (a : Byte) {s : State} (h : s.dropSkip ≠ s.dropAck) :
    exec (.rel a) s = .next (s.respond .overrun 0) :=
  if_pos h

theorem exec_rel_of_empty (a : Byte) {s : State} (hseen : s.dropSkip = s.dropAck) (h : s.framesBuffered = 0) :
    exec (.rel a) s = .next (s.respond .empty 0) :=
  (if_neg (not_not.mpr hseen)).trans (if_pos h)

theorem exec_rel_of_buffered (a : Byte) {s : State} (hseen : s.dropSkip = s.dropAck) (h : s.framesBuffered ≠ 0) :
    exec (.rel a) s = .next ((s.setReleased (idxAdd s.cfg.cap s.readIndex (1 + (s.ringByte s.readIndex).toNat))
      (s.framesBuffered - 1)).respond .ok 0) :=
  (if_neg (not_not.mpr hseen)).trans (if_neg h)

end Machine

open Machine

/-! ## The obligations -/

/-- Settles O39: a step runs at most one operation, and every operation keeps the chain. -/
theorem stepKeepsChainOfRecords : Obligations.StepKeepsChainOfRecords := by
  intro s t hinv h
  obtain hsame | ⟨i, u, v, hbefore, hexec, hafter⟩ := step_runsOneOperation h
  · exact ringInv_of_receiver_eq hsame hinv
  · have hu := ringInv_of_receiver_eq hbefore hinv
    exact ringInv_of_receiver_eq hafter (exec_keeps_ringInv hu hexec)

/-- Settles O26: an increment is an addition of one, and a difference is what an addition undoes. -/
theorem indexArithmeticModuloCap : Obligations.IndexArithmeticModuloCap := by
  intro cap i j n hfour hcap hi hj
  have hpos : 0 < cap := by omega
  refine ⟨?_, idxInc_lt hpos hcap hi, idxAdd_toNat hpos hcap i n, idxAdd_lt hpos hcap i n, idxSub_cast hpos hcap hi hj,
    idxSub_lt hpos hcap hi⟩
  rw [idxInc_eq_idxAdd hpos hcap hi, idxAdd_toNat hpos hcap]

/-- Settles O27: `tail` is `read_index` and the bytes skipped since the last `ACQ`, of which there are now as many more as the record has. -/
theorem dropMovesTailPastRecord : Obligations.DropMovesTailPastRecord := by
  intro s hinv hbuf
  exact ⟨drop_eq s, (drop_withoutOldest hinv).tail, oldest_length_bounds hinv hbuf⟩

/-- Settles O29: of the symbols only a bit that completes a data byte claims ring bytes, and its claims drop at most one record. -/
theorem oneDropPerEdge : Obligations.OneDropPerEdge := by
  intro t s u hinv h
  cases h
  exact handle_dropsAtMostOldest (setLastEdge_ringInv hinv t) _

/-- Settles O32: both outcomes of `ACQ`; the chain bounds the byte at `tail`. -/
theorem acqResynchronises : Obligations.AcqResynchronises := by
  intro a s
  refine ⟨fun tw => decodeReadsBackEncode tw (.acq a) rfl, exec_acq_of_empty a, exec_acq_of_buffered a, fun hinv hbuf => ?_⟩
  obtain ⟨hone, hmax⟩ := oldest_length_bounds hinv hbuf
  exact ⟨hone, hmax, setReader_tail hinv.cfgWf⟩

/-- Settles O33: the answer is the byte at `tail`, a length of the chain. -/
theorem acqAnswersRecordLength : Obligations.AcqAnswersRecordLength := by
  intro a s t hinv hbuf h
  cases (exec_acq_of_buffered a hbuf).symm.trans h
  exact ⟨setReader_tail hinv.cfgWf, s.ringByte s.tail, rfl, oldest_length_bounds hinv hbuf⟩

/-- Settles O37: `distance` is at least two for each record, and 0 exactly at `tail`. -/
theorem distanceZeroMeansEmpty : Obligations.DistanceZeroMeansEmpty := by
  intro s hinv
  have hbytes := hinv.chainInv.framesBuffered_le
  have hempty (hzero : s.distance = 0) : s.framesBuffered = 0 := by
    rw [hzero] at hbytes
    bv_omega
  have hsame (htail : s.writeIndex = s.tail) : s.distance = 0 := by rw [State.distance, htail, idxSub_self]
  refine ⟨fun hbuf htail => hbuf (hempty (hsame htail)), fun hnone hidle => ?_, hempty⟩
  have htail := (tail_eq_writeIndex_of_empty hinv hidle hnone).symm
  exact ⟨htail, hsame htail⟩

/-- Settles O38: `distance` is at least two for each record, and below `CAP`. -/
theorem recordsAndDistanceBounded : Obligations.RecordsAndDistanceBounded := by
  intro s hinv
  have hbytes := hinv.chainInv.framesBuffered_le
  have hlt := hinv.chainInv.distance_lt
  omega

/-- Settles O44: the commands write two cursors of the consumer, the counter and the response. -/
theorem readersLeaveProducerAlone : Obligations.ReadersLeaveProducerAlone := by
  intro i s t hi h
  obtain ⟨read, ack, frames, r, rfl⟩ := exec_reader_writes hi h
  exact ⟨⟨rfl, rfl, rfl, rfl, rfl, rfl, rfl⟩, ⟨rfl, rfl⟩, fun _ => rfl, rfl, rfl, rfl, rfl, rfl, rfl, rfl, rfl, rfl, rfl, rfl⟩

/-- Settles O28: the two outcomes of `ADVANCE`. -/
theorem advanceDropsOnlyWhenFull : Obligations.AdvanceDropsOnlyWhenFull :=
  fun _ => ⟨fun hfull => advance_of_full hfull.1 hfull.2, advance_of_room⟩

/-- Settles O30: `NOP`'s word reads back, and its one equation is the statement. -/
theorem nopOnlyAnswers : Obligations.NopOnlyAnswers :=
  fun a s => ⟨fun tw => decodeReadsBackEncode tw (.nop a) rfl, exec_nop a s⟩

/-- Settles O31: `STAT`'s word reads back, and its answer is the counter. -/
theorem statAnswersCount : Obligations.StatAnswersCount :=
  fun a s => ⟨fun tw => decodeReadsBackEncode tw (.stat a) rfl, exec_stat a s⟩

/-- Settles O34: `RDB`'s word reads back, and its address is formed by `IDXADD`. -/
theorem rdbAnswersByteAtOffset : Obligations.RdbAnswersByteAtOffset :=
  fun k s => ⟨fun tw => decodeReadsBackEncode tw (.rdb k) rfl, exec_rdb k s⟩

/-- Settles O35: the two tests of `REL` in their order. -/
theorem relReleasesRecord : Obligations.RelReleasesRecord :=
  fun a _ => ⟨fun tw => decodeReadsBackEncode tw (.rel a) rfl, exec_rel_of_dropped a, exec_rel_of_empty a, exec_rel_of_buffered a⟩

end Sys2Proof
end


section
/-! Proofs for spec/44_frame_consumer.md: the points of `GET` and their commands (R242 to R249), the checks and the tracker after the release (R250
to R257), and `GET` with no edge in between (R258). -/

namespace Sys2Proof

namespace Machine

open Host

/-! ## Every operation leaves the companions alone (R241) -/

/-- No operation writes a field of a companion; of the tracker, only `RST` writes it, and unsets it (70_reset R300). -/
theorem exec_keeps_companions {i : Instr} {s t : State} (h : exec i s = .next t) :
    s.sameOutside t ∧ (t.lastSequence = s.lastSequence ∨ t.lastSequence = none) := by
  have of_producer (hi : i.port = .evt ∨ i.port = .sym ∨ ∃ a, i = .tmo a) :
      s.sameOutside t ∧ (t.lastSequence = s.lastSequence ∨ t.lastSequence = none) := by
    obtain ⟨⟨-, -, hseq⟩, hout, -⟩ := producerLeavesConsumerAlone i s t hi h
    exact ⟨hout, .inl hseq⟩
  have of_reader (hi : ∃ a, i = .nop a ∨ i = .stat a ∨ i = .acq a ∨ i = .rdb a ∨ i = .rel a) :
      s.sameOutside t ∧ (t.lastSequence = s.lastSequence ∨ t.lastSequence = none) := by
    obtain ⟨-, -, -, -, hseq, hout⟩ := readersLeaveProducerAlone i s t hi h
    exact ⟨hout, .inl hseq⟩
  cases i with
  | edge u => exact of_producer (.inl rfl)
  | symStart | symOne | symZero | symNoise => exact of_producer (.inr (.inl rfl))
  | nop a => exact of_reader ⟨a, .inl rfl⟩
  | stat a => exact of_reader ⟨a, .inr (.inl rfl)⟩
  | acq a => exact of_reader ⟨a, .inr (.inr (.inl rfl))⟩
  | rdb a => exact of_reader ⟨a, .inr (.inr (.inr (.inl rfl)))⟩
  | rel a => exact of_reader ⟨a, .inr (.inr (.inr (.inr rfl)))⟩
  | tmo a => exact of_producer (.inr (.inr ⟨a, rfl⟩))
  | rst _ => cases h; exact ⟨⟨rfl, rfl, rfl, rfl, rfl, rfl, rfl, rfl, rfl⟩, .inr rfl⟩

/-! ## The response `GET` takes (30_encoding R117) -/

@[simp] theorem rspCode_rspWord (rc : ReturnCode) (d : Byte) : rspCode (rspWord rc d) = rc.bits :=
  BitVec.extractLsb'_append_eq_left

@[simp] theorem rspData_rspWord (rc : ReturnCode) (d : Byte) : rspData (rspWord rc d) = d :=
  BitVec.extractLsb'_append_eq_right

/-- A `GET` whose command answers `(rc, d)` goes on with that answer. -/
theorem getStep_of_answer (chk : Byte → List Byte → Byte) {s u : State} {g : GetCall} {rc : ReturnCode} {d : Byte}
    (hcall : s.getCall = some g) (hexec : exec (g.command s.cfg) s = .next (u.respond rc d)) :
    getStep chk s = .next (answerGet chk g rc.bits d (u.respond rc d)) := by
  simp only [getStep, hcall, hexec, takeResponse, respond_rsp, rspCode_rspWord, rspData_rspWord]

section Points

variable (chk : Byte → List Byte → Byte) {s : State} {g : GetCall} (hcall : s.getCall = some g)

include hcall

/-! ## Step 1, `STAT` (R242) -/

theorem getStep_stat (hpoint : g.point = .stat) :
    getStep chk s = .next (answerGet chk g ReturnCode.ok.bits s.framesBuffered (s.respond .ok s.framesBuffered)) := by
  have hcommand : g.command s.cfg = .stat 0 := by rw [GetCall.command, hpoint]
  exact getStep_of_answer chk hcall (by rw [hcommand, exec_stat])

theorem getStep_stat_of_empty (hpoint : g.point = .stat) (hempty : s.framesBuffered = 0) :
    getStep chk s = .next ((s.respond .ok 0).returnGet (failed .noData)) := by
  rw [getStep_stat chk hcall hpoint, answerGet, hpoint, hempty]
  rfl

theorem getStep_stat_of_buffered (hpoint : g.point = .stat) (hbuf : s.framesBuffered ≠ 0) :
    getStep chk s = .next ((s.respond .ok s.framesBuffered).continueGet { g with point := .acq }) := by
  rw [getStep_stat chk hcall hpoint, answerGet, hpoint]
  exact congrArg Outcome.next (if_neg hbuf)

/-! ## Step 2, `ACQ` (R243) -/

theorem getStep_acq_of_empty (hpoint : g.point = .acq) (hempty : s.framesBuffered = 0) :
    getStep chk s = .next ((s.respond .empty 0).returnGet (failed .noData)) := by
  have hcommand : g.command s.cfg = .acq 0 := by rw [GetCall.command, hpoint]
  rw [getStep_of_answer chk hcall (by rw [hcommand, exec_acq_of_empty 0 hempty]), answerGet, hpoint]
  rfl

theorem getStep_acq_of_buffered (hpoint : g.point = .acq) (hbuf : s.framesBuffered ≠ 0) :
    getStep chk s = .next (acquired g (s.ringByte s.tail)
      ((s.setReader s.tail s.dropSkip).respond .ok (s.ringByte s.tail))) := by
  have hcommand : g.command s.cfg = .acq 0 := by rw [GetCall.command, hpoint]
  rw [getStep_of_answer chk hcall (by rw [hcommand, exec_acq_of_buffered 0 hbuf]), answerGet, hpoint]
  rfl

end Points

/-! ## The three `REL`s (R245, R246, R249) -/

/-- The points at which a `GET` is about to release the record it read. -/
abbrev GetPoint.releases (p : GetPoint) : Prop := p = .relShort ∨ p = .relOverflow ∨ p = .relCopied

theorem command_of_releases {g : GetCall} (h : g.point.releases) (c : Cfg) : g.command c = .rel 0 := by
  obtain h | h | h := h <;> rw [GetCall.command, h]

/-- A release that is turned away makes the `GET` start over, wherever it stands. -/
theorem answerGet_of_turned_away (chk : Byte → List Byte → Byte) {g : GetCall} (h : g.point.releases) {rc : BitVec 2}
    (hrc : rc ≠ ReturnCode.ok.bits) (d : Byte) (s : State) : answerGet chk g rc d s = s.restartGet g := by
  obtain h | h | h := h <;> rw [answerGet, h] <;> exact if_neg hrc

/-- The block after a `REL` that releases the record at `read_index` (43_ring_buffer R224). -/
def State.released (s : State) : State :=
  (s.setReleased (idxAdd s.cfg.cap s.readIndex (1 + (s.ringByte s.readIndex).toNat)) (s.framesBuffered - 1)).respond .ok 0

theorem released_cfg (s : State) : s.released.cfg = s.cfg := rfl
theorem released_lastSequence (s : State) : s.released.lastSequence = s.lastSequence := rfl

section Releases

variable (chk : Byte → List Byte → Byte) {s : State} {g : GetCall} (hcall : s.getCall = some g)

include hcall

theorem getStep_of_turned_away (hpoint : g.point.releases) {rc : ReturnCode} {d : Byte}
    (hrel : exec (.rel 0) s = .next (s.respond rc d)) (hrc : rc.bits ≠ ReturnCode.ok.bits) :
    getStep chk s = .next ((s.respond rc d).restartGet g) := by
  rw [getStep_of_answer chk hcall (command_of_releases hpoint s.cfg ▸ hrel), answerGet_of_turned_away chk hpoint hrc]

variable (hseen : s.dropSkip = s.dropAck) (hbuf : s.framesBuffered ≠ 0)

include hseen hbuf

theorem getStep_of_released (hpoint : g.point.releases) :
    getStep chk s = .next (answerGet chk g ReturnCode.ok.bits 0 s.released) :=
  getStep_of_answer chk hcall (command_of_releases hpoint s.cfg ▸ exec_rel_of_buffered 0 hseen hbuf)

theorem getStep_relShort (hpoint : g.point = .relShort) : getStep chk s = .next (s.released.returnGet (failed .noise)) := by
  rw [getStep_of_released chk hcall hseen hbuf (.inl hpoint), answerGet, hpoint]
  rfl

theorem getStep_relOverflow (hpoint : g.point = .relOverflow) :
    getStep chk s = .next (s.released.returnGet (failed .bufferOverflow)) := by
  rw [getStep_of_released chk hcall hseen hbuf (.inr (.inl hpoint)), answerGet, hpoint]
  rfl

theorem getStep_relCopied (hpoint : g.point = .relCopied) : getStep chk s = .next (concludeGet chk g s.released) := by
  rw [getStep_of_released chk hcall hseen hbuf (.inr (.inr hpoint)), answerGet, hpoint]
  rfl

end Releases

/-! ## Steps 7 and 7a, the check (R250, R251) -/

section Checks

variable (chk : Byte → List Byte → Byte) {c : Cfg} {g : GetCall}

theorem checkVerdict_of_mismatch (hec : c.ecEn = true) (h : chk (checkSeed c g.sequence) g.copied ≠ g.check) :
    checkVerdict chk c g = some .corrupted := by
  rw [checkVerdict, if_pos hec, if_pos h]

theorem checkVerdict_of_all_zero (hec : c.ecEn = true) (h : chk (checkSeed c g.sequence) g.copied = g.check)
    (hzero : g.check = 0) (hall : ∀ b ∈ g.copied, b = 0) : checkVerdict chk c g = some .noise := by
  have hpayload : g.copied.all (· == 0) = true := List.all_eq_true.mpr fun b hb => beq_iff_eq.mpr (hall b hb)
  rw [checkVerdict, if_pos hec, if_neg (not_not.mpr h), if_pos ⟨hzero, hpayload⟩]

theorem checkVerdict_of_passed (h : c.ecEn = true →
    chk (checkSeed c g.sequence) g.copied = g.check ∧ ¬(g.check = 0 ∧ ∀ b ∈ g.copied, b = 0)) :
    checkVerdict chk c g = none := by
  rw [checkVerdict]
  split
  next hec =>
    obtain ⟨hmatch, hpayload⟩ := h hec
    rw [if_neg (not_not.mpr hmatch), if_neg]
    simpa using hpayload
  next => rfl

theorem getVerdict_of_rejected {st : Status} (last : Option Byte) (h : checkVerdict chk c g = some st) :
    getVerdict chk c last g = (failed st, last) := by
  rw [getVerdict, h]

theorem getVerdict_of_passed (last : Option Byte) (h : checkVerdict chk c g = none) :
    getVerdict chk c last g = sequenceVerdict c last g := by
  rw [getVerdict, h]

end Checks

/-! ## Steps 8 to 8b, the tracker (R252 to R254) -/

section Tracker

variable {c : Cfg} {g : GetCall}

theorem sequenceVerdict_of_off (last : Option Byte) (g : GetCall) (hsq : c.sqEn = false) :
    sequenceVerdict c last g = (⟨.success, BitVec.ofNat 8 (g.payloadLen c), 0⟩, last) :=
  if_neg (Bool.eq_false_iff.mp hsq)

theorem sequenceVerdict_of_unset (g : GetCall) (hsq : c.sqEn = true) :
    sequenceVerdict c none g = (⟨.success, BitVec.ofNat 8 (g.payloadLen c), 0⟩, some g.sequence) :=
  if_pos hsq

theorem sequenceVerdict_of_repeated {last : Byte} (hsq : c.sqEn = true) (h : c.ecEn = true ∧ g.sequence = last) :
    sequenceVerdict c (some last) g = (failed .duplicateMessage, some last) :=
  (if_pos hsq).trans (if_pos h)

theorem sequenceVerdict_of_new {last : Byte} (hsq : c.sqEn = true) (h : ¬(c.ecEn = true ∧ g.sequence = last)) :
    sequenceVerdict c (some last) g =
      (⟨.success, BitVec.ofNat 8 (g.payloadLen c), messagesLost g.sequence last⟩, some g.sequence) :=
  (if_pos hsq).trans (if_neg h)

/-- The loss as a number over the integers (30_encoding R129). -/
theorem messagesLost_cast (sequence last : Byte) :
    ((messagesLost sequence last).toNat : Int) = ((sequence.toNat : Int) - last.toNat - 1) % 256 := by
  rw [messagesLost]
  bv_omega

end Tracker

/-! ## After the release (R249 to R257) -/

section Conclusion

variable {chk : Byte → List Byte → Byte} {s : State} {g : GetCall} {r : GetResult} {q : Option Byte}
  (hverdict : getVerdict chk s.cfg s.lastSequence g = (r, q))

include hverdict

theorem concludeGet_of_returned (hr : r.status ≠ .duplicateMessage) :
    concludeGet chk g s = (s.setLastSequence q).returnGet r := by
  rw [concludeGet, hverdict, if_neg hr]

theorem concludeGet_of_duplicate (hr : r.status = .duplicateMessage) :
    concludeGet chk g s = (s.setLastSequence q).restartGet g := by
  rw [concludeGet, hverdict, if_pos hr]

/-- A result other than a duplicate is returned. -/
theorem concludeGet_returns (hr : r.status ≠ .duplicateMessage) :
    (concludeGet chk g s).lastSequence = q ∧ (concludeGet chk g s).getCall = none ∧
      (concludeGet chk g s).getResult = some r := by
  rw [concludeGet_of_returned hverdict hr]
  exact ⟨rfl, rfl, rfl⟩

/-- A duplicate is skipped: the `GET` starts over and nothing is returned. -/
theorem concludeGet_skips (hr : r.status = .duplicateMessage) :
    (concludeGet chk g s).lastSequence = q ∧ (concludeGet chk g s).getCall = some (freshGet g.outCapacity) ∧
      (concludeGet chk g s).getResult = s.getResult := by
  rw [concludeGet_of_duplicate hverdict hr]
  exact ⟨rfl, rfl, rfl⟩

end Conclusion

theorem concludeGet_lastSequence (chk : Byte → List Byte → Byte) (g : GetCall) (s : State) :
    (concludeGet chk g s).lastSequence = (getVerdict chk s.cfg s.lastSequence g).2 := by
  rw [concludeGet]
  split <;> rfl

theorem concludeGet_outBuffer (chk : Byte → List Byte → Byte) (g : GetCall) (s : State) :
    (concludeGet chk g s).outBuffer = s.outBuffer := by
  rw [concludeGet]
  split <;> rfl

/-- What equal receivers have in common, register by register. -/
theorem registers_of_receiver_eq {s t : State} (h : t.receiver = s.receiver) :
    t.framesBuffered = s.framesBuffered ∧ t.readIndex = s.readIndex ∧ t.dropAck = s.dropAck ∧
      s.sameAssembler t ∧ s.sameProducerCursors t ∧ s.sameRing t ∧ t.cfg = s.cfg := by
  have hfield {α : Type} (f : State → α) : f t.receiver = f s.receiver := congrArg f h
  exact ⟨hfield State.framesBuffered, hfield State.readIndex, hfield State.dropAck,
    ⟨hfield State.lastEdge, hfield State.fip, hfield State.pulseCnt, hfield State.bitAcc, hfield State.byteCnt,
      hfield State.declaredLen, hfield State.frameStart⟩,
    ⟨hfield State.writeIndex, hfield State.dropSkip⟩, fun a => hfield (State.ringByte · a), hfield State.cfg⟩

/-! ## What a response can lead to (R256) -/

/-- An acquired record is read, released, or, when it does not fit and is to stay, returned as `BUFFER_OVERFLOW` (R244 to R246). -/
theorem acquired_cases (g : GetCall) (len : Byte) (s : State) :
    (∃ g', acquired g len s = s.continueGet g') ∨ acquired g len s = s.returnGet (failed .bufferOverflow) := by
  unfold acquired
  split
  next => exact .inl ⟨_, rfl⟩
  next =>
    split
    next =>
      split
      next => exact .inl ⟨_, rfl⟩
      next => exact .inr rfl
    next => exact .inl ⟨_, rfl⟩

/-- The `GET` goes on, fails, stores a payload byte, or draws its conclusion from a released record. -/
theorem answerGet_cases (chk : Byte → List Byte → Byte) (g : GetCall) (rc : BitVec 2) (data : Byte) (s : State) :
    (∃ g', answerGet chk g rc data s = s.continueGet g') ∨
    (∃ st, st ≠ .duplicateMessage ∧ answerGet chk g rc data s = s.returnGet (failed st)) ∨
    (∃ i v g', answerGet chk g rc data s = (s.writeOut i v).continueGet g') ∨
    answerGet chk g rc data s = concludeGet chk g s := by
  unfold answerGet
  cases g.point with
  | stat =>
    dsimp only
    split
    · exact .inr (.inl ⟨.noData, nofun, rfl⟩)
    · exact .inl ⟨_, rfl⟩
  | acq =>
    dsimp only
    split
    · obtain ⟨g', h⟩ | h := acquired_cases g data s
      · exact .inl ⟨g', h⟩
      · exact .inr (.inl ⟨.bufferOverflow, nofun, h⟩)
    · exact .inr (.inl ⟨.noData, nofun, rfl⟩)
  | relShort =>
    dsimp only
    split
    · exact .inr (.inl ⟨.noise, nofun, rfl⟩)
    · exact .inl ⟨_, rfl⟩
  | relOverflow =>
    dsimp only
    split
    · exact .inr (.inl ⟨.bufferOverflow, nofun, rfl⟩)
    · exact .inl ⟨_, rfl⟩
  | rdbCheck => exact .inl ⟨_, rfl⟩
  | rdbSequence => exact .inl ⟨_, rfl⟩
  | rdbPayload => exact .inr (.inr (.inl ⟨_, _, _, rfl⟩))
  | relCopied =>
    dsimp only
    split
    · exact .inr (.inr (.inr rfl))
    · exact .inl ⟨_, rfl⟩

/-- With sequencing off no verdict touches the tracker (R252). -/
theorem getVerdict_tracker_of_off (chk : Byte → List Byte → Byte) {c : Cfg} (hsq : c.sqEn = false) (last : Option Byte) (g : GetCall) :
    (getVerdict chk c last g).2 = last := by
  cases hcheck : checkVerdict chk c g with
  | some st => rw [getVerdict_of_rejected chk last hcheck]
  | none => rw [getVerdict_of_passed chk last hcheck, sequenceVerdict_of_off last g hsq]

/-! ## What a step does to the tracker and to what `GET` returned (R252, R257) -/

/-- From `s` to `t` the tracker is written by a `GET` with sequencing on or is unset by an `RST`, and nothing but a result other than a duplicate
is returned. -/
structure ConsumerStep (s t : State) : Prop where
  cfg : t.cfg = s.cfg
  tracker : s.cfg.sqEn = false → t.lastSequence = s.lastSequence ∨ t.lastSequence = none
  result : t.getResult = s.getResult ∨ ∀ r, t.getResult = some r → r.status ≠ .duplicateMessage

theorem ConsumerStep.of_same {s t : State} (hcfg : t.cfg = s.cfg) (hseq : t.lastSequence = s.lastSequence)
    (hresult : t.getResult = s.getResult) : ConsumerStep s t :=
  ⟨hcfg, fun _ => .inl hseq, .inl hresult⟩

theorem ConsumerStep.trans {s t u : State} (h : ConsumerStep s t) (h' : ConsumerStep t u) : ConsumerStep s u where
  cfg := h'.cfg.trans h.cfg
  tracker hsq := by
    obtain htu | hunset := h'.tracker (h.cfg ▸ hsq)
    · rw [htu]
      exact h.tracker hsq
    · exact .inr hunset
  result := by
    obtain htu | hreturned := h'.result
    · rw [htu]
      exact h.result
    · exact .inr hreturned

theorem exec_consumerStep {i : Instr} {s t : State} (h : exec i s = .next t) : ConsumerStep s t := by
  obtain ⟨⟨hcfg, -, -, -, -, hresult, -⟩, hseq⟩ := exec_keeps_companions h
  exact ⟨hcfg, fun _ => hseq, .inl hresult⟩

theorem returnGet_consumerStep (s : State) {r : GetResult} (hr : r.status ≠ .duplicateMessage) :
    ConsumerStep s (s.returnGet r) :=
  ⟨rfl, fun _ => .inl rfl, .inr fun _ hresult => Option.some.inj hresult ▸ hr⟩

theorem concludeGet_consumerStep (chk : Byte → List Byte → Byte) (g : GetCall) (s : State) :
    ConsumerStep s (concludeGet chk g s) := by
  have htracker : ConsumerStep s (s.setLastSequence (getVerdict chk s.cfg s.lastSequence g).2) :=
    ⟨rfl, fun hsq => .inl (getVerdict_tracker_of_off chk hsq s.lastSequence g), .inl rfl⟩
  unfold concludeGet
  split
  next => exact htracker.trans (.of_same rfl rfl rfl)
  next hr => exact htracker.trans (returnGet_consumerStep _ hr)

theorem answerGet_consumerStep (chk : Byte → List Byte → Byte) (g : GetCall) (rc : BitVec 2) (data : Byte) (s : State) :
    ConsumerStep s (answerGet chk g rc data s) := by
  obtain ⟨g', h⟩ | ⟨st, hst, h⟩ | ⟨i, v, g', h⟩ | h := answerGet_cases chk g rc data s <;> rw [h]
  · exact .of_same rfl rfl rfl
  · exact returnGet_consumerStep s hst
  · exact .of_same rfl rfl rfl
  · exact concludeGet_consumerStep chk g s

theorem takeResponse_consumerStep (chk : Byte → List Byte → Byte) (g : GetCall) (s : State) :
    ConsumerStep s (takeResponse chk g s) := by
  unfold takeResponse
  split
  next => exact answerGet_consumerStep chk g _ _ s
  next => exact .of_same rfl rfl rfl

theorem runWord_consumerStep {p : Port} {w : BitVec 65} {now : Stamp} {s t : State} (h : runWord p w now s = .next t) :
    ConsumerStep s t := by
  have hbus : ConsumerStep s (s.setNowBus (busTime s.cfg.tw p w now)) := .of_same rfl rfl rfl
  obtain ⟨i, -, -, hexec⟩ | ⟨-, -, rfl⟩ | ⟨-, rfl⟩ := runWord_cases h
  · exact hbus.trans (exec_consumerStep hexec)
  · exact .of_same rfl rfl rfl
  · exact .of_same rfl rfl rfl

theorem getStep_consumerStep {chk : Byte → List Byte → Byte} {s t : State} (h : getStep chk s = .next t) : ConsumerStep s t := by
  obtain ⟨-, rfl⟩ | ⟨g, u, -, hexec, rfl⟩ := getStep_cases h
  · exact .of_same rfl rfl rfl
  · exact (exec_consumerStep hexec).trans (takeResponse_consumerStep chk g u)

theorem sendStep_consumerStep {s t : State} (h : sendStep s = .next t) : ConsumerStep s t := by
  obtain ⟨-, rfl⟩ | ⟨-, -, rfl⟩ | ⟨-, -, -, -, -, rfl⟩ | ⟨u, g, rest, -, -, -, hexec⟩ := sendStep_cases h
  · exact .of_same rfl rfl rfl
  · exact .of_same rfl rfl rfl
  · exact .of_same rfl rfl rfl
  · have hdriven : ConsumerStep s ((driveSegment u g rest s).setNowBus u) := .of_same rfl rfl rfl
    exact hdriven.trans (exec_consumerStep hexec)

theorem perform_consumerStep {r : Request} {s t : State} (h : perform r s = .next t) : ConsumerStep s t := by
  cases r with
  | word p w now => exact runWord_consumerStep h
  | get n =>
    obtain ⟨-, rfl⟩ := callGet_cases h
    exact ⟨rfl, fun _ => .inl rfl, .inr nofun⟩
  | getStep => exact getStep_consumerStep h
  | send payload t0 => obtain ⟨-, -, rfl⟩ := callSend_cases h; exact .of_same rfl rfl rfl
  | sendStep => exact sendStep_consumerStep h
  | forceSequence v => cases h; exact .of_same rfl rfl rfl

theorem step_consumerStep {s t : State} (h : step s = .next t) : ConsumerStep s t := by
  obtain ⟨-, ⟨-, rfl⟩ | ⟨r, rest, -, hperform⟩⟩ := step_cases h
  · exact .of_same rfl rfl rfl
  · have hscheduled : ConsumerStep s (s.setSchedule rest) := .of_same rfl rfl rfl
    exact hscheduled.trans (perform_consumerStep hperform)

/-! ## Commands with no edge between them (R258) -/

/-- Some number of commands of the `GET` in progress lead from `s` to `t`. -/
def State.reaches (chk : Byte → List Byte → Byte) (s t : State) : Prop := ∃ k, getSteps chk k s = .next t

theorem reaches_refl (chk : Byte → List Byte → Byte) (s : State) : s.reaches chk s := ⟨0, rfl⟩

theorem reaches_of_getStep {chk : Byte → List Byte → Byte} {s u t : State} (h : getStep chk s = .next u) (hrest : u.reaches chk t) :
    s.reaches chk t := by
  obtain ⟨k, hk⟩ := hrest
  exact ⟨k + 1, by rw [getSteps, h]; exact hk⟩

theorem reaches_trans {chk : Byte → List Byte → Byte} {s u t : State} (hsu : s.reaches chk u) (hut : u.reaches chk t) :
    s.reaches chk t := by
  obtain ⟨k, hk⟩ := hsu
  induction k generalizing s with
  | zero =>
    cases hk
    exact hut
  | succ k ih =>
    rw [getSteps] at hk
    split at hk
    next hstep => exact reaches_of_getStep hstep (ih hk)
    next => cases hk
    next => cases hk

/-! ## Reading the record byte by byte (R247, R248) -/

/-- `s` after an `ACQ` of its oldest record, under a `GET` at `g`, with `out` in the caller's buffer and the answer `(OK, d)` on the port. -/
def State.readingAt (s : State) (g : GetCall) (out : Memory) (d : Byte) : State :=
  { s with
    readIndex := s.tail, dropAck := s.dropSkip, getCall := some g, outBuffer := out, rsp := some (rspWord .ok d) }

/-- An `RDB` answers a byte of the oldest record. -/
theorem getStep_readingAt_of_rdb (chk : Byte → List Byte → Byte) {s : State} {g : GetCall} {k : Byte} (out : Memory) (d : Byte)
    (hcommand : g.command s.cfg = .rdb k) :
    getStep chk (s.readingAt g out d) = .next (answerGet chk g ReturnCode.ok.bits (s.ringByte (idxAdd s.cfg.cap s.tail k.toNat))
      (s.readingAt g out (s.ringByte (idxAdd s.cfg.cap s.tail k.toNat)))) :=
  getStep_of_answer chk (s := s.readingAt g out d) rfl
    ((congrArg (exec · (s.readingAt g out d)) hcommand).trans (exec_rdb k (s.readingAt g out d)))

theorem recordBytes_getElem? (s : State) (a : Byte) (lo : Nat) {n i : Nat} (hi : i < n) :
    (s.recordBytes a lo n)[i]? = some (s.ringByte (idxAdd s.cfg.cap a (lo + i))) := by
  simp [State.recordBytes, hi]

section Reading

variable (chk : Byte → List Byte → Byte) (s : State) (cap : Byte)

theorem getStep_rdbCheck {g : GetCall} (hpoint : g.point = .rdbCheck) (out : Memory) (d : Byte) :
    getStep chk (s.readingAt g out d) = .next (s.readingAt
      { g with check := s.ringByte (idxAdd s.cfg.cap s.tail 1), point := if s.cfg.sqEn then .rdbSequence else .rdbPayload } out
      (s.ringByte (idxAdd s.cfg.cap s.tail 1))) := by
  have hcommand : g.command s.cfg = .rdb 1 := by rw [GetCall.command, hpoint]
  rw [getStep_readingAt_of_rdb chk out d hcommand, answerGet, hpoint]
  rfl

theorem getStep_rdbSequence {g : GetCall} (hpoint : g.point = .rdbSequence) (out : Memory) (d : Byte) :
    getStep chk (s.readingAt g out d) = .next (s.readingAt
      { g with sequence := s.ringByte (idxAdd s.cfg.cap s.tail (1 + s.cfg.ecEn.toNat)), point := .rdbPayload } out
      (s.ringByte (idxAdd s.cfg.cap s.tail (1 + s.cfg.ecEn.toNat)))) := by
  have hcommand : g.command s.cfg = .rdb (BitVec.ofNat 8 (1 + s.cfg.ecEn.toNat)) := by rw [GetCall.command, hpoint]
  have hoffset : (BitVec.ofNat 8 (1 + s.cfg.ecEn.toNat)).toNat = 1 + s.cfg.ecEn.toNat := by cases s.cfg.ecEn <;> rfl
  rw [getStep_readingAt_of_rdb chk out d hcommand, answerGet, hpoint, hoffset]
  rfl

theorem getStep_rdbPayload {g : GetCall} (hpoint : g.point = .rdbPayload) (hlen : 1 + s.cfg.headerLen + g.copied.length < 256)
    (out : Memory) (d : Byte) :
    getStep chk (s.readingAt g out d) = .next (s.readingAt
      { g with
        copied := g.copied ++ [s.ringByte (idxAdd s.cfg.cap s.tail (1 + s.cfg.headerLen + g.copied.length))],
        point := if g.payloadLen s.cfg ≤ g.copied.length + 1 then .relCopied else .rdbPayload }
      (out.write g.copied.length (s.ringByte (idxAdd s.cfg.cap s.tail (1 + s.cfg.headerLen + g.copied.length))))
      (s.ringByte (idxAdd s.cfg.cap s.tail (1 + s.cfg.headerLen + g.copied.length)))) := by
  have hcommand : g.command s.cfg = .rdb (BitVec.ofNat 8 (1 + s.cfg.headerLen + g.copied.length)) := by
    rw [GetCall.command, hpoint]
  have hoffset : (BitVec.ofNat 8 (1 + s.cfg.headerLen + g.copied.length)).toNat = 1 + s.cfg.headerLen + g.copied.length :=
    Nat.mod_eq_of_lt hlen
  rw [getStep_readingAt_of_rdb chk out d hcommand, answerGet, hpoint, hoffset]
  rfl

/-- The locals of a `GET` that knows the length of the oldest record and goes on at `p` (R244). -/
def State.lengthKnown (p : GetPoint) : GetCall := { freshGet cap with len := s.ringByte s.tail, point := p }

/-- The locals of a `GET` that has read the check byte, if there is one (R247). -/
def State.checkKnown : GetCall :=
  { s.recordRead s.tail cap with
    sequence := 0, copied := [], point := if s.cfg.sqEn then .rdbSequence else .rdbPayload }

/-- The locals of a `GET` that has copied the first `n` payload bytes (R248). -/
def State.copiedUpTo (n : Nat) : GetCall :=
  { s.recordRead s.tail cap with
    copied := s.recordBytes s.tail (1 + s.cfg.headerLen) n,
    point := if payloadLen s.cfg (s.ringByte s.tail) ≤ n then .relCopied else .rdbPayload }

theorem reaches_checkKnown (out : Memory) (d : Byte) :
    ∃ d', (s.readingAt (s.lengthKnown cap (firstReadPoint s.cfg)) out d).reaches chk (s.readingAt (s.checkKnown cap) out d') := by
  cases hec : s.cfg.ecEn with
  | false =>
    have hsame : s.checkKnown cap = s.lengthKnown cap (firstReadPoint s.cfg) := by
      simp [State.lengthKnown, State.checkKnown, State.recordRead, freshGet, firstReadPoint, hec]
    rw [hsame]
    exact ⟨d, reaches_refl chk _⟩
  | true =>
    have hnext : s.checkKnown cap = { s.lengthKnown cap (firstReadPoint s.cfg) with
        check := s.ringByte (idxAdd s.cfg.cap s.tail 1), point := if s.cfg.sqEn then .rdbSequence else .rdbPayload } := by
      simp [State.lengthKnown, State.checkKnown, State.recordRead, freshGet, hec]
    rw [hnext]
    exact ⟨_, reaches_of_getStep (getStep_rdbCheck chk s (if_pos hec) out d) (reaches_refl chk _)⟩

theorem reaches_copiedUpTo_zero (hpayload : 0 < payloadLen s.cfg (s.ringByte s.tail)) (out : Memory) (d : Byte) :
    ∃ d', (s.readingAt (s.checkKnown cap) out d).reaches chk (s.readingAt (s.copiedUpTo cap 0) out d') := by
  have hmore : ¬payloadLen s.cfg (s.ringByte s.tail) ≤ 0 := by omega
  cases hsq : s.cfg.sqEn with
  | false =>
    have hsame : s.copiedUpTo cap 0 = s.checkKnown cap := by
      simp [State.copiedUpTo, State.checkKnown, State.recordRead, State.recordBytes, hsq, hpayload.ne']
    rw [hsame]
    exact ⟨d, reaches_refl chk _⟩
  | true =>
    have hnext : s.copiedUpTo cap 0 = { s.checkKnown cap with
        sequence := s.ringByte (idxAdd s.cfg.cap s.tail (1 + s.cfg.ecEn.toNat)), point := .rdbPayload } := by
      simp [State.copiedUpTo, State.checkKnown, State.recordRead, State.recordBytes, hsq, hpayload.ne']
    rw [hnext]
    exact ⟨_, reaches_of_getStep (getStep_rdbSequence chk s (if_pos hsq) out d) (reaches_refl chk _)⟩

/-- The copy loop, by induction on the bytes copied: `out_buffer` holds them, and is as before everywhere else. -/
theorem reaches_copiedUpTo (out : Memory) (d : Byte) {n : Nat}
    (hn : n ≤ payloadLen s.cfg (s.ringByte s.tail)) :
    ∃ out' d', (s.readingAt (s.copiedUpTo cap 0) out d).reaches chk (s.readingAt (s.copiedUpTo cap n) out' d') ∧
      ∀ i, out'.read? i = if i < n then (s.recordRead s.tail cap).copied[i]? else out.read? i := by
  induction n with
  | zero => exact ⟨out, d, reaches_refl chk _, fun _ => rfl⟩
  | succ n ih =>
    obtain ⟨out', d', hreaches, hout⟩ := ih (by omega)
    have hcopied : (s.copiedUpTo cap n).copied.length = n := by simp [State.copiedUpTo, State.recordBytes]
    have hpoint : (s.copiedUpTo cap n).point = .rdbPayload := if_neg (by omega)
    have hlen : 1 + s.cfg.headerLen + n < 256 := by
      have hbyte := (s.ringByte s.tail).isLt
      rw [payloadLen] at hn
      omega
    have hstep := getStep_rdbPayload chk s hpoint (by rwa [hcopied]) out' d'
    simp only [hcopied] at hstep
    have hnext : s.copiedUpTo cap (n + 1) = { s.copiedUpTo cap n with
        copied := (s.copiedUpTo cap n).copied ++ [s.ringByte (idxAdd s.cfg.cap s.tail (1 + s.cfg.headerLen + n))],
        point := if (s.copiedUpTo cap n).payloadLen s.cfg ≤ n + 1 then .relCopied else .rdbPayload } := by
      rw [State.copiedUpTo, recordBytes_succ]
      rfl
    have hbyte : (s.recordRead s.tail cap).copied[n]? =
        some (s.ringByte (idxAdd s.cfg.cap s.tail (1 + s.cfg.headerLen + n))) :=
      recordBytes_getElem? s s.tail (1 + s.cfg.headerLen) hn
    rw [← hnext] at hstep
    refine ⟨_, _, reaches_trans hreaches (reaches_of_getStep hstep (reaches_refl chk _)), fun i => ?_⟩
    rw [read?_write, hout]
    rcases Nat.lt_trichotomy i n with hlt | rfl | hgt
    · rw [if_neg hlt.ne, if_pos hlt, if_pos (Nat.lt_succ_of_lt hlt)]
    · rw [if_pos rfl, if_pos (Nat.lt_succ_self i), hbyte]
    · rw [if_neg hgt.ne', if_neg (by omega), if_neg (by omega)]

end Reading

/-- From the record's length to the whole record (R247, R248). -/
theorem reaches_recordRead (chk : Byte → List Byte → Byte) (s : State) (cap : Byte)
    (hpayload : 0 < payloadLen s.cfg (s.ringByte s.tail)) (out : Memory) (d : Byte) :
    ∃ out' d', (s.readingAt (s.lengthKnown cap (firstReadPoint s.cfg)) out d).reaches chk
        (s.readingAt (s.recordRead s.tail cap) out' d') ∧
      ∀ i, out'.read? i =
        if i < payloadLen s.cfg (s.ringByte s.tail) then (s.recordRead s.tail cap).copied[i]? else out.read? i := by
  obtain ⟨d₁, hcheck⟩ := reaches_checkKnown chk s cap out d
  obtain ⟨d₂, hstart⟩ := reaches_copiedUpTo_zero chk s cap hpayload out d₁
  obtain ⟨out', d₃, hcopy, hout⟩ := reaches_copiedUpTo chk s cap out d₂ le_rfl
  have hwhole : s.copiedUpTo cap (payloadLen s.cfg (s.ringByte s.tail)) = s.recordRead s.tail cap := by
    rw [State.copiedUpTo, if_pos le_rfl]
    rfl
  rw [hwhole] at hcopy
  exact ⟨out', d₃, reaches_trans hcheck (reaches_trans hstart hcopy), hout⟩

/-! ## The closed form (R258) -/

section Closed

variable (chk : Byte → List Byte → Byte) (cap : Byte) {s : State}

theorem getClosed_of_empty (h : s.framesBuffered = 0) : getClosed chk cap s = (s, failed .noData) := if_pos h

section Buffered

variable (hbuf : s.framesBuffered ≠ 0)

include hbuf

theorem getClosed_of_short (hshort : (s.ringByte s.tail).toNat < s.cfg.minLen) :
    getClosed chk cap s = (s.consumeAt s.tail, failed .noise) :=
  (if_neg hbuf).trans (if_pos hshort)

variable (hlong : ¬(s.ringByte s.tail).toNat < s.cfg.minLen)

include hlong

theorem getClosed_of_overflow (hover : cap.toNat < payloadLen s.cfg (s.ringByte s.tail)) :
    getClosed chk cap s =
      (if s.cfg.ovfConsumes then s.consumeAt s.tail else s.setReader s.tail s.dropSkip, failed .bufferOverflow) := by
  rw [getClosed, if_neg hbuf, if_neg hlong, if_pos hover]
  split <;> rfl

variable (hfits : ¬cap.toNat < payloadLen s.cfg (s.ringByte s.tail))

include hfits

theorem getClosed_of_fits :
    getClosed chk cap s =
      ((s.consumeAt s.tail).setLastSequence (getVerdict chk s.cfg s.lastSequence (s.recordRead s.tail cap)).2,
        (getVerdict chk s.cfg s.lastSequence (s.recordRead s.tail cap)).1) := by
  rw [getClosed, if_neg hbuf, if_neg hlong, if_neg hfits]

theorem copyLen_of_fits : s.copyLen cap = payloadLen s.cfg (s.ringByte s.tail) :=
  if_neg fun h => h.elim hbuf fun h => h.elim hlong hfits

end Buffered

/-- All that a `GET` writes in the block and the tracker. -/
theorem getClosed_writes (s : State) : ∃ read ack frames last, (getClosed chk cap s).1 =
    { s with readIndex := read, dropAck := ack, framesBuffered := frames, lastSequence := last } := by
  unfold getClosed
  split
  next => exact ⟨_, _, _, _, rfl⟩
  next =>
    split
    next => exact ⟨_, _, _, _, rfl⟩
    next =>
      split
      next => split <;> exact ⟨_, _, _, _, rfl⟩
      next => exact ⟨_, _, _, _, rfl⟩

theorem copyLen_le (s : State) : s.copyLen cap ≤ cap.toNat := by
  rw [State.copyLen]
  split
  next => exact Nat.zero_le _
  next h => omega

/-- A result reports the whole payload or nothing (R255). -/
theorem getVerdict_bytesWritten_le (c : Cfg) (last : Option Byte) (g : GetCall) :
    (getVerdict chk c last g).1.bytesWritten.toNat ≤ g.payloadLen c := by
  have hwhole : (BitVec.ofNat 8 (g.payloadLen c)).toNat ≤ g.payloadLen c := Nat.mod_le _ _
  have hnone (st : Status) : (failed st).bytesWritten.toNat ≤ g.payloadLen c := Nat.zero_le _
  cases hcheck : checkVerdict chk c g with
  | some st => rw [getVerdict_of_rejected chk last hcheck]; exact hnone st
  | none =>
    rw [getVerdict_of_passed chk last hcheck]
    unfold sequenceVerdict
    split
    next =>
      split
      next => exact hwhole
      next =>
        split
        next => exact hnone _
        next => exact hwhole
    next => exact hwhole

theorem getClosed_bytesWritten_le (s : State) : (getClosed chk cap s).2.bytesWritten.toNat ≤ s.copyLen cap := by
  by_cases hbuf : s.framesBuffered = 0
  · rw [getClosed_of_empty chk cap hbuf]
    exact Nat.zero_le _
  by_cases hshort : (s.ringByte s.tail).toNat < s.cfg.minLen
  · rw [getClosed_of_short chk cap hbuf hshort]
    exact Nat.zero_le _
  by_cases hover : cap.toNat < payloadLen s.cfg (s.ringByte s.tail)
  · rw [getClosed_of_overflow chk cap hbuf hshort hover]
    exact Nat.zero_le _
  · rw [getClosed_of_fits chk cap hbuf hshort hover, copyLen_of_fits cap hbuf hshort hover]
    exact getVerdict_bytesWritten_le chk s.cfg s.lastSequence (s.recordRead s.tail cap)

end Closed

/-! ## `GET` reaches its closed form (R258) -/

/-- `t` is where the closed form has a `GET cap` from `s` end, or, for a duplicate, start over. -/
structure MatchesClosed (chk : Byte → List Byte → Byte) (cap : Byte) (s t : State) : Prop where
  receiver : t.receiver = (getClosed chk cap s).1.receiver
  tracker : t.lastSequence = (getClosed chk cap s).1.lastSequence
  buffer : ∀ i, t.outBuffer.read? i =
    if i < s.copyLen cap then (s.recordRead s.tail cap).copied[i]? else s.outBuffer.read? i
  returned : (getClosed chk cap s).2.status ≠ .duplicateMessage →
    t.getCall = none ∧ t.getResult = some (getClosed chk cap s).2
  skipped : (getClosed chk cap s).2.status = .duplicateMessage →
    t.getCall = some (freshGet cap) ∧ t.getResult = s.getResult

/-- A `GET` that fails before it copies a byte. -/
theorem matchesClosed_of_failed {chk : Byte → List Byte → Byte} {cap : Byte} {s u c : State} {st : Status}
    (hclosed : getClosed chk cap s = (c, failed st)) (hst : st ≠ .duplicateMessage) (hcopy : s.copyLen cap = 0)
    (hreceiver : u.receiver = c.receiver) (htracker : u.lastSequence = c.lastSequence) (hbuffer : u.outBuffer = s.outBuffer) :
    MatchesClosed chk cap s (u.returnGet (failed st)) where
  receiver := by rw [hclosed]; exact hreceiver
  tracker := by rw [hclosed]; exact htracker
  buffer i := by
    rw [hcopy, if_neg (Nat.not_lt_zero i), ← hbuffer]
    rfl
  returned _ := by rw [hclosed]; exact ⟨rfl, rfl⟩
  skipped hdup := by rw [hclosed] at hdup; exact absurd hdup hst

/-- The verdict on the record just released is the closed form's (R250 to R257). -/
theorem concludeGet_matchesClosed {chk : Byte → List Byte → Byte} {cap : Byte} {s : State} {out : Memory}
    (hclosed : getClosed chk cap s =
      ((s.consumeAt s.tail).setLastSequence (getVerdict chk s.cfg s.lastSequence (s.recordRead s.tail cap)).2,
        (getVerdict chk s.cfg s.lastSequence (s.recordRead s.tail cap)).1))
    (hcopy : s.copyLen cap = payloadLen s.cfg (s.ringByte s.tail)) (d : Byte)
    (hout : ∀ i, out.read? i =
      if i < payloadLen s.cfg (s.ringByte s.tail) then (s.recordRead s.tail cap).copied[i]? else s.outBuffer.read? i) :
    MatchesClosed chk cap s
      (concludeGet chk (s.recordRead s.tail cap) (s.readingAt (s.recordRead s.tail cap) out d).released) := by
  have hverdict : getVerdict chk (s.readingAt (s.recordRead s.tail cap) out d).released.cfg
      (s.readingAt (s.recordRead s.tail cap) out d).released.lastSequence (s.recordRead s.tail cap) =
      ((getVerdict chk s.cfg s.lastSequence (s.recordRead s.tail cap)).1,
        (getVerdict chk s.cfg s.lastSequence (s.recordRead s.tail cap)).2) := by
    rw [released_cfg, released_lastSequence]
    rfl
  constructor
  case receiver =>
    rw [hclosed, concludeGet_receiver]
    rfl
  case tracker =>
    rw [hclosed, concludeGet_lastSequence, hverdict]
    rfl
  case buffer =>
    intro i
    rw [hcopy, concludeGet_outBuffer]
    exact hout i
  case returned =>
    rw [hclosed]
    exact fun hr => (concludeGet_returns hverdict hr).2
  case skipped =>
    rw [hclosed]
    exact fun hr => (concludeGet_skips hverdict hr).2

/-- What `GET` makes of a length does not depend on the call it replaces, nor on the point it stood at. -/
theorem acquired_setGetCall (g : GetCall) (p : GetPoint) (len : Byte) (s : State) (x : Option GetCall) :
    acquired { g with point := p } len (s.setGetCall x) = acquired g len s := by
  unfold acquired
  rfl

/-- An `ACQ` replaces the answer of the `STAT` before it, and leaves the call where it is. -/
theorem setReader_respond_of_setGetCall (s : State) (rc rc' : ReturnCode) (d d' r k : Byte) (x : Option GetCall) :
    (((s.respond rc d).setGetCall x).setReader r k).respond rc' d' = ((s.setReader r k).respond rc' d').setGetCall x := rfl

/-- The block after an `ACQ` that answers its oldest record's length (43_ring_buffer R222). -/
def State.oldestAcquired (s : State) : State := (s.setReader s.tail s.dropSkip).respond .ok (s.ringByte s.tail)

/-- The block after the release of the record being read: the one the closed form consumes. -/
theorem released_readingAt_receiver (s : State) (g : GetCall) (out : Memory) (d : Byte) :
    (s.readingAt g out d).released.receiver = (s.consumeAt s.tail).receiver := rfl

section Run

variable (chk : Byte → List Byte → Byte) {cap : Byte} {s : State} (hcall : s.getCall = some (freshGet cap))
  (hbuf : s.framesBuffered ≠ 0)

include hcall hbuf

/-- `STAT` and `ACQ` of a buffered record (R242 to R244). -/
theorem reaches_of_acquired {u t : State} (hacquired : acquired (freshGet cap) (s.ringByte s.tail) s.oldestAcquired = u)
    (hrest : u.reaches chk t) : s.reaches chk t := by
  have hstat := getStep_stat_of_buffered chk hcall rfl hbuf
  have hacq := getStep_acq_of_buffered chk
    (s := (s.respond .ok s.framesBuffered).setGetCall (some { freshGet cap with point := .acq })) rfl rfl hbuf
  rw [setReader_respond_of_setGetCall, acquired_setGetCall, setGetCall_ringByte, setGetCall_tail, setGetCall_dropSkip,
    respond_ringByte, respond_tail, respond_dropSkip] at hacq
  exact reaches_of_getStep hstat (reaches_of_getStep (hacq.trans (congrArg Outcome.next hacquired)) hrest)

/-- The release of a record that is too short (R245). -/
theorem closed_of_short (hshort : (s.ringByte s.tail).toNat < s.cfg.minLen) :
    ∃ t, s.reaches chk t ∧ MatchesClosed chk cap s t := by
  have hacquired : acquired (freshGet cap) (s.ringByte s.tail) s.oldestAcquired =
      s.readingAt (s.lengthKnown cap .relShort) s.outBuffer (s.ringByte s.tail) := if_pos hshort
  have hrel := getStep_relShort chk (s := s.readingAt (s.lengthKnown cap .relShort) s.outBuffer (s.ringByte s.tail)) rfl rfl hbuf rfl
  refine ⟨_, reaches_of_acquired chk hcall hbuf hacquired (reaches_of_getStep hrel (reaches_refl chk _)), ?_⟩
  exact matchesClosed_of_failed (getClosed_of_short chk cap hbuf hshort) nofun (if_pos (.inr (.inl hshort)))
    (released_readingAt_receiver s _ _ _) rfl rfl

variable (hlong : ¬(s.ringByte s.tail).toNat < s.cfg.minLen)

include hlong

/-- A record the caller's buffer cannot hold is released or stays, by `OVF_CONSUMES` (R246). -/
theorem closed_of_overflow (hover : cap.toNat < payloadLen s.cfg (s.ringByte s.tail)) :
    ∃ t, s.reaches chk t ∧ MatchesClosed chk cap s t := by
  have hclosed := getClosed_of_overflow chk cap hbuf hlong hover
  have hcopy : s.copyLen cap = 0 := if_pos (.inr (.inr hover))
  cases hovf : s.cfg.ovfConsumes with
  | false =>
    have hstays := Bool.eq_false_iff.mp hovf
    have hacquired : acquired (freshGet cap) (s.ringByte s.tail) s.oldestAcquired =
        s.oldestAcquired.returnGet (failed .bufferOverflow) := (if_neg hlong).trans ((if_pos hover).trans (if_neg hstays))
    rw [if_neg hstays] at hclosed
    exact ⟨_, reaches_of_acquired chk hcall hbuf hacquired (reaches_refl chk _),
      matchesClosed_of_failed hclosed nofun hcopy rfl rfl rfl⟩
  | true =>
    have hacquired : acquired (freshGet cap) (s.ringByte s.tail) s.oldestAcquired =
        s.readingAt (s.lengthKnown cap .relOverflow) s.outBuffer (s.ringByte s.tail) :=
      (if_neg hlong).trans ((if_pos hover).trans (if_pos hovf))
    have hrel := getStep_relOverflow chk (s := s.readingAt (s.lengthKnown cap .relOverflow) s.outBuffer (s.ringByte s.tail)) rfl rfl
      hbuf rfl
    rw [if_pos hovf] at hclosed
    exact ⟨_, reaches_of_acquired chk hcall hbuf hacquired (reaches_of_getStep hrel (reaches_refl chk _)),
      matchesClosed_of_failed hclosed nofun hcopy (released_readingAt_receiver s _ _ _) rfl rfl⟩

/-- A record that fits is read whole, released and judged (R247 to R257). -/
theorem closed_of_fits (hfits : ¬cap.toNat < payloadLen s.cfg (s.ringByte s.tail)) :
    ∃ t, s.reaches chk t ∧ MatchesClosed chk cap s t := by
  have hpayload : 0 < payloadLen s.cfg (s.ringByte s.tail) := by
    rw [Cfg.minLen] at hlong
    rw [payloadLen]
    omega
  have hacquired : acquired (freshGet cap) (s.ringByte s.tail) s.oldestAcquired =
      s.readingAt (s.lengthKnown cap (firstReadPoint s.cfg)) s.outBuffer (s.ringByte s.tail) :=
    (if_neg hlong).trans (if_neg hfits)
  obtain ⟨out, d, hread, hout⟩ := reaches_recordRead chk s cap hpayload s.outBuffer (s.ringByte s.tail)
  have hrel := getStep_relCopied chk (s := s.readingAt (s.recordRead s.tail cap) out d) rfl rfl hbuf rfl
  refine ⟨_, reaches_of_acquired chk hcall hbuf hacquired (reaches_trans hread (reaches_of_getStep hrel (reaches_refl chk _))), ?_⟩
  exact concludeGet_matchesClosed (getClosed_of_fits chk cap hbuf hlong hfits) (copyLen_of_fits cap hbuf hlong hfits) d hout

end Run

/-- With no edge in between a `GET` reaches its closed form, whatever the oldest record is. -/
theorem reaches_closed (chk : Byte → List Byte → Byte) {cap : Byte} {s : State} (hcall : s.getCall = some (freshGet cap)) :
    ∃ t, s.reaches chk t ∧ MatchesClosed chk cap s t := by
  by_cases hbuf : s.framesBuffered = 0
  · have hstat := getStep_stat_of_empty chk hcall rfl hbuf
    exact ⟨_, reaches_of_getStep hstat (reaches_refl chk _),
      matchesClosed_of_failed (getClosed_of_empty chk cap hbuf) nofun (if_pos (.inl hbuf)) rfl rfl rfl⟩
  by_cases hshort : (s.ringByte s.tail).toNat < s.cfg.minLen
  · exact closed_of_short chk hcall hbuf hshort
  by_cases hover : cap.toNat < payloadLen s.cfg (s.ringByte s.tail)
  · exact closed_of_overflow chk hcall hbuf hshort hover
  · exact closed_of_fits chk hcall hbuf hshort hover

end Machine

open Machine

/-! ## The obligations -/

/-- Settles O50: `STAT` answers the counter, and the data of that answer is 0. -/
theorem getOfEmptyRing : Obligations.GetOfEmptyRing := by
  intro chk s g hcall hpoint hempty
  rw [getStep_stat_of_empty chk hcall hpoint hempty]
  rfl

/-- Settles O51: the answers of `REL` and `ACQ`, taken at the points of `GET` that wait for them. -/
theorem overrunRestartsGet : Obligations.OverrunRestartsGet := by
  intro chk s g hcall
  refine ⟨fun hpoint => ⟨fun hdropped => ?overrun, fun hseen hempty => ?empty⟩, fun hpoint hseen hbuf => ?released,
    fun hpoint hempty => ?noData⟩
  case overrun =>
    rw [getStep_of_turned_away chk hcall hpoint (exec_rel_of_dropped 0 hdropped) (by decide)]
    rfl
  case empty =>
    rw [getStep_of_turned_away chk hcall hpoint (exec_rel_of_empty 0 hseen hempty) (by decide)]
    rfl
  case released =>
    obtain hshort | hover := hpoint
    · rw [getStep_relShort chk hcall hseen hbuf hshort, if_pos hshort]
      rfl
    · rw [getStep_relOverflow chk hcall hseen hbuf hover, if_neg (by rw [hover]; decide)]
      rfl
  case noData =>
    rw [getStep_acq_of_empty chk hcall hpoint hempty]
    rfl

/-- Settles O52: the verdict on the released record is the check's, which leaves the tracker as it was. -/
theorem checkRejectsRecord : Obligations.CheckRejectsRecord := by
  intro chk s g hcall hpoint hec hseen hbuf value after
  have hreturn {st : Status} (hst : st ≠ .duplicateMessage) (hverdict : checkVerdict chk s.cfg g = some st) :
      getStep chk s = .next (after st) := by
    have hresult : getVerdict chk s.released.cfg s.released.lastSequence g = (failed st, s.lastSequence) :=
      getVerdict_of_rejected chk s.lastSequence hverdict
    rw [getStep_relCopied chk hcall hseen hbuf hpoint, concludeGet_of_returned hresult hst]
    rfl
  refine ⟨fun hmismatch => hreturn (by decide) (checkVerdict_of_mismatch chk hec hmismatch), fun hmatch hzero hall => ?_⟩
  exact hreturn (by decide) (checkVerdict_of_all_zero chk hec hmatch (hmatch.symm.trans hzero) hall)

/-- Settles O53: the verdict on a record that passed its checks is the tracker's, in its four cases. -/
theorem trackerCountsLosses : Obligations.TrackerCountsLosses := by
  intro chk s g hcall hpoint hseen hbuf hpassed
  have hverdict : getVerdict chk s.released.cfg s.released.lastSequence g = sequenceVerdict s.cfg s.lastSequence g :=
    getVerdict_of_passed chk s.lastSequence (checkVerdict_of_passed chk hpassed)
  obtain ⟨hframes, hread, hack, hassembler, hcursors, hring, hcfg⟩ :=
    registers_of_receiver_eq (concludeGet_receiver chk g s.released)
  refine ⟨_, getStep_relCopied chk hcall hseen hbuf hpoint, hframes, hread, hack, hassembler, hcursors, hring,
    concludeGet_outBuffer chk g s.released, hcfg, fun hsq => ?off, fun hsq hlast => ?unset, fun last hsq hlast hrepeated => ?repeated,
    fun last hsq hlast hnew => ?new⟩
  case off =>
    rw [sequenceVerdict_of_off _ g hsq] at hverdict
    exact concludeGet_returns hverdict nofun
  case unset =>
    rw [hlast, sequenceVerdict_of_unset g hsq] at hverdict
    exact concludeGet_returns hverdict nofun
  case repeated =>
    rw [hlast, sequenceVerdict_of_repeated hsq hrepeated] at hverdict
    rw [hlast]
    exact concludeGet_skips hverdict rfl
  case new =>
    rw [hlast, sequenceVerdict_of_new hsq hnew] at hverdict
    obtain ⟨hseq, hcall', hresult⟩ := concludeGet_returns hverdict nofun
    exact ⟨hseq, hcall', _, hresult, messagesLost_cast g.sequence last⟩

/-- Settles O54: a `GET` reaches its closed form, which writes nothing but the consumer's cursors, the counter and the tracker. The
chain invariant is not needed: `REL` follows an `ACQ` with no edge in between, so no drop can be unseen and the counter is not 0. -/
theorem getMatchesClosedForm : Obligations.GetMatchesClosedForm := by
  intro chk cap s _ hcall
  obtain ⟨t, ⟨k, hsteps⟩, hclosed⟩ := reaches_closed chk hcall
  obtain ⟨hframes, hread, hack, -⟩ := registers_of_receiver_eq hclosed.receiver
  have hkept : t.ring = s.ring ∧ s.sameAssembler t ∧ s.sameProducerCursors t ∧ t.cfg = s.cfg := by
    obtain ⟨read, ack, frames, last, hwrites⟩ := getClosed_writes chk cap s
    have hreceiver := hclosed.receiver.trans (congrArg State.receiver hwrites)
    obtain ⟨-, -, -, hassembler, hcursors, -, hcfg⟩ := registers_of_receiver_eq hreceiver
    have hring := ring_of_receiver_eq hreceiver
    exact ⟨hring, hassembler, hcursors, hcfg⟩
  obtain ⟨hring, hassembler, hcursors, hcfg⟩ := hkept
  exact ⟨k, t, hsteps, hread, hack, hframes, hclosed.tracker, hring, hassembler, hcursors, hcfg, hclosed.buffer,
    getClosed_bytesWritten_le chk cap s, copyLen_le cap s, hclosed.returned, hclosed.skipped⟩

/-- Settles O55: of all requests only a `GET` step returns a result, and it skips a duplicate instead of returning it. -/
theorem stepKeepsDuplicatesInternal : Obligations.StepKeepsDuplicatesInternal := by
  intro s t hs h
  obtain hsame | hreturned := (step_consumerStep h).result
  · intro r hr
    exact hs r (hsame ▸ hr)
  · exact hreturned

/-- Settles O56: with sequencing off the tracker is written by `RST` alone, which unsets it. -/
theorem stepKeepsTrackerUnset : Obligations.StepKeepsTrackerUnset := by
  intro s t hs h hsq
  have hsq' : s.cfg.sqEn = false := (step_consumerStep h).cfg ▸ hsq
  obtain hsame | hunset := (step_consumerStep h).tracker hsq'
  · rw [hsame, hs hsq']
  · exact hunset

end Sys2Proof
end


section
/-! Proofs for spec/60_exceptions.md: every operation is total (R270), and none reads the response of the one before it (R273). -/

namespace Sys2Proof

namespace Machine

open Host

/-! ## What the operations do to a state without a response (R273)

`State.silent` takes the response away. It commutes with each handler of the assembler, so what an operation does is decided without the
response, and the operation's own response replaces whatever stood there. -/

theorem commit_silent (s : State) : commit s.silent = (commit s).silent := by
  simp only [commit, apply_ite State.silent]
  rfl

theorem advance_silent (s : State) : advance s.silent = (advance s).silent := by
  simp only [advance, apply_ite State.silent]
  rfl

theorem storeByte_silent (v : Byte) (s : State) : storeByte v s.silent = (storeByte v s).silent := by
  simp only [storeByte, apply_ite State.silent, ← advance_silent]
  rw [advance_silent s]
  rfl

theorem byteReceived_silent (v : Byte) (s : State) : byteReceived v s.silent = (byteReceived v s).silent := by
  simp only [byteReceived, lengthByte, dataByte, apply_ite State.silent, ← commit_silent, storeByte_silent]
  rfl

theorem pushBit_silent (b : Bool) (s : State) : pushBit b s.silent = (pushBit b s).silent := by
  simp only [pushBit, apply_ite State.silent, ← byteReceived_silent]
  rfl

theorem symbolBit_silent (b : Bool) (s : State) : symbolBit b s.silent = (symbolBit b s).silent := by
  simp only [symbolBit, apply_ite State.silent, pushBit_silent]
  rfl

/-- No handler reads the response. -/
theorem handle_silent (y : Symbol) (s : State) : handle y s.silent = (handle y s).silent :=
  match y with
  | .start => congrArg State.openFrame (commit_silent s)
  | .one => symbolBit_silent true s
  | .zero => symbolBit_silent false s
  | .noise => commit_silent s

/-- A symbol's operation leaves no response, so it does not matter whether one stood there before. -/
theorem exec_symbolInstr_silent (y : Symbol) (s : State) : exec (symbolInstr y) s.silent = exec (symbolInstr y) s := by
  rw [exec_symbolInstr, exec_symbolInstr, handle_silent]
  rfl

theorem edgeState_silent (t : Stamp) (s : State) : edgeState t s.silent = edgeState t s :=
  (congrArg State.silent (handle_silent (classify s.cfg (s.period t)) (s.setLastEdge t)) :)

/-- The poll's condition is of the registers and the `now` bus, and its answer replaces the response. -/
theorem exec_tmo_silent (a : Byte) (s : State) : exec (.tmo a) s.silent = exec (.tmo a) s := by
  obtain ⟨htimedOut, h⟩ | ⟨hnot, h⟩ := exec_tmo_cases a s
  · have hsilent : s.silent.timedOut = true := htimedOut
    rw [h, exec_tmo_of_timedOut a hsilent, commit_silent]
    rfl
  · have hsilent : ¬s.silent.timedOut = true := Bool.eq_false_iff.mp hnot
    rw [h, exec_tmo_of_not_timedOut a hsilent]
    rfl

/-- No operation reads the response: `EDGE` and the symbols leave none, and each command answers with its own. -/
theorem exec_silent (i : Instr) (s : State) : exec i s.silent = exec i s := by
  cases i with
  | edge t => exact congrArg Outcome.next (edgeState_silent t s)
  | symStart => exact exec_symbolInstr_silent .start s
  | symOne => exact exec_symbolInstr_silent .one s
  | symZero => exact exec_symbolInstr_silent .zero s
  | symNoise => exact exec_symbolInstr_silent .noise s
  | nop _ => rfl
  | stat _ => rfl
  | acq _ => rfl
  | rdb _ => rfl
  | rel _ => rfl
  | tmo a => exact exec_tmo_silent a s
  | rst _ => rfl

end Machine

open Machine

/-! ## The obligations -/

/-- Settles O46: states that differ in the response alone are the same state once it is taken away, and no operation reads it. -/
theorem responseHasNoEffect : Obligations.ResponseHasNoEffect := by
  intro i s r
  have hsame : State.silent { s with rsp := r } = s.silent := rfl
  rw [← exec_silent i { s with rsp := r }, hsame, exec_silent]

/-- Settles O8, operation by operation: where an operation has a choice, each branch answers a next state. -/
theorem everyOperationCompletes : Obligations.EveryOperationCompletes := by
  intro i s
  cases i with
  | edge t => exact ⟨_, exec_edge t s⟩
  | symStart => exact ⟨_, exec_symStart s⟩
  | symOne => exact ⟨_, exec_symOne s⟩
  | symZero => exact ⟨_, exec_symZero s⟩
  | symNoise => exact ⟨_, exec_symNoise s⟩
  | nop a => exact ⟨_, exec_nop a s⟩
  | stat a => exact ⟨_, exec_stat a s⟩
  | acq a => obtain ⟨-, h⟩ | ⟨-, h⟩ := exec_acq_cases a s <;> exact ⟨_, h⟩
  | rdb k => exact ⟨_, exec_rdb k s⟩
  | rel a => obtain ⟨-, h⟩ | ⟨-, -, h⟩ | ⟨-, -, h⟩ := exec_rel_cases a s <;> exact ⟨_, h⟩
  | tmo a => obtain ⟨-, h⟩ | ⟨-, h⟩ := exec_tmo_cases a s <;> exact ⟨_, h⟩
  | rst a => exact ⟨_, exec_rst a s⟩

end Sys2Proof
end

section
/-! Proofs for spec/70_reset_and_hazards.md: what `RST` and reset leave (R300, R301), the requests a step turns away, and the bytes
of the records, which have all been written since reset (R302). -/

namespace Sys2Proof

namespace Machine

open Host

/-! ## Requests that are turned away (93_implementation_defined U24; log 11, 12, 14) -/

theorem runWord_of_resetDuringGet {p : Port} {w : BitVec 65} {i : Instr} {s : State} (now : Stamp)
    (hdecode : decode s.cfg.tw p w = .ok i) (hrst : resetDuringGet i s = true) :
    runWord p w now s = .refused .resetDuringGet := by
  rw [runWord, hdecode]
  exact if_pos hrst

theorem runWord_of_overWide {p : Port} {w : BitVec 65} {s : State} (now : Stamp) (h : 2 ^ p.width s.cfg.tw ≤ w.toNat) :
    runWord p w now s = .refused .overWideWord := by
  have hdecode : decode s.cfg.tw p w = .error .overWide := if_neg (Nat.not_lt.mpr h)
  rw [runWord, hdecode]

theorem callGet_of_busy (n : Byte) {s : State} (h : s.getCall ≠ none) : callGet n s = .refused .foregroundBusy := by
  obtain ⟨g, hg⟩ := Option.ne_none_iff_exists'.mp h
  rw [callGet, hg]

theorem callSend_of_busy (chk : Byte → List Byte → Byte) (payload : List Byte) (t0 : Stamp) {s : State} (h : s.tx ≠ none) :
    callSend chk payload t0 s = .refused .transmitterBusy := by
  obtain ⟨u, hu⟩ := Option.ne_none_iff_exists'.mp h
  rw [callSend, hu]

/-! ## The bytes from `tail` on -/

theorem read?_write_ne_none_iff (m : Memory) (a : Nat) (v : Byte) (b : Nat) :
    (m.write a v).read? b ≠ none ↔ b = a ∨ m.read? b ≠ none := by
  rw [read?_write]
  split
  next heq => exact iff_of_true (Option.some_ne_none v) (.inl heq)
  next hne => exact (or_iff_right hne).symm

/-- The slot before the bytes that the frame in progress has claimed is its header slot. -/
theorem fromTail_header {s : State} (h : ChainInv s) (hfip : s.fip = true) {k : Nat} (hk : k + s.claimed = s.distance.toNat) :
    s.fromTail k = s.frameStart.toNat := by
  obtain ⟨hpos, hcap⟩ := Cfg.cap_pos_le h.cfgWf
  obtain ⟨total, hchain, hdist, -⟩ := h.chain
  obtain rfl : k = total := by omega
  rw [State.fromTail, chainFrom_end hpos hcap (tail_lt h.cfgWf) hchain, chainEnd_of_inFrame hfip]

/-- The next data byte goes to the last of the slots it claims (R193). -/
theorem fromTail_dataSlot {s : State} (h : RingInv s) : s.fromTail (s.distance.toNat + (s.dataClaims - 1)) = s.dataSlot.toNat := by
  obtain ⟨hpos, hcap⟩ := Cfg.cap_pos_le h.cfgWf
  obtain ⟨hw, -⟩ := h.indices
  rw [State.fromTail, ← idxAdd_idxAdd hpos hcap, idxAdd_tail_distance h.cfgWf hw, State.dataClaims, State.dataSlot]
  split
  next => rw [idxInc_eq_idxAdd hpos hcap hw]
  next => rw [idxAdd_zero hw]

/-- Only the first data byte claims a second slot, and the frame has claimed none before. -/
theorem dataClaims_cases (s : State) : (s.dataClaims = 2 ∧ s.claimed = 0) ∨ s.dataClaims = 1 := by
  rw [State.dataClaims]
  split
  next hfirst => exact .inl ⟨rfl, claimed_of_no_data (by rw [hfirst]; decide)⟩
  next => exact .inr rfl

/-- `distance` falls by the bytes of the record that goes. -/
theorem WithoutOldest.distance_toNat {s t : State} (h : WithoutOldest s t) (hinv : RingInv s) (hbuf : s.framesBuffered ≠ 0) :
    (1 + (s.ringByte s.tail).toNat) + t.distance.toNat = s.distance.toNat := by
  obtain ⟨hpos, hcap⟩ := Cfg.cap_pos_le hinv.cfgWf
  obtain ⟨hw, -⟩ := hinv.indices
  obtain ⟨rest, -, hdist, -⟩ := hinv.chainInv.oldest hbuf
  have hlt := hinv.chainInv.distance_lt
  have hcursor : idxAdd s.cfg.cap t.tail (rest + s.claimed) = s.writeIndex := by
    rw [h.tail, idxAdd_idxAdd hpos hcap, ← Nat.add_assoc, ← hdist, idxAdd_tail_distance hinv.cfgWf hw]
  have htail : t.tail.toNat < s.cfg.cap := by
    rw [h.tail]
    exact idxAdd_lt hpos hcap _ _
  have hleft := (idxSub_eq_iff hpos hcap hw htail (by omega)).mpr hcursor
  rw [State.distance, h.cfg, h.writeIndex, hleft, hdist, Nat.add_assoc, Nat.add_assoc, Nat.add_assoc]

/-- `distance` rises by the slots that a data byte claims. -/
theorem counted_distance_toNat {s : State} (hinv : RingInv s) (hfip : s.fip = true) (hcnt : s.byteCnt ≠ 0) (h : ¬s.dataDrops)
    (v : Byte) : (s.counted v).distance.toNat = s.distance.toNat + s.dataClaims := by
  obtain ⟨hpos, hcap⟩ := Cfg.cap_pos_le hinv.cfgWf
  have hslot := dataSlot_lt hinv hfip hcnt
  have hcursor : idxAdd s.cfg.cap s.tail (s.distance.toNat + s.dataClaims) = idxInc s.cfg.cap s.dataSlot := by
    have hlast : idxAdd s.cfg.cap s.tail (s.distance.toNat + (s.dataClaims - 1)) = s.dataSlot :=
      BitVec.eq_of_toNat_eq (fromTail_dataSlot hinv)
    have hclaims := dataClaims_cases s
    have hone : s.dataClaims - 1 + 1 = s.dataClaims := by omega
    rw [← hlast, idxInc_idxAdd hpos hcap, Nat.add_assoc, hone]
  rw [counted_of_room h]
  exact (idxSub_eq_iff hpos hcap (idxInc_lt hpos hcap hslot) (tail_lt hinv.cfgWf) (distance_add_dataClaims_lt hinv hfip hcnt h)).mpr
    hcursor

/-! ## Who keeps the records written (R302) -/

/-- The statement speaks of the slots from `tail` on and of which of them is the header slot of the frame in progress. -/
theorem recordsWritten_of_same_slots {s t : State} (hclaimed : t.claimed = s.claimed) (hdist : t.distance = s.distance)
    (hslots : ∀ k, t.ring.read? (t.fromTail k) = s.ring.read? (s.fromTail k)) (hs : s.recordsWritten) : t.recordsWritten := by
  intro k hk hheader
  rw [hdist] at hk hheader
  rw [hclaimed] at hheader
  rw [hslots]
  exact hs k hk hheader

theorem recordsWritten_of_receiver_eq {s t : State} (h : t.receiver = s.receiver) (hs : s.recordsWritten) : t.recordsWritten :=
  recordsWritten_of_same_slots (congrArg State.claimed h :) (congrArg State.distance h :)
    (fun k => (congrArg (fun u : State => u.ring.read? (u.fromTail k)) h :)) hs

/-- Without the oldest record the bytes in question are a tail of those before. -/
theorem WithoutOldest.recordsWritten {s t : State} (h : WithoutOldest s t) (hinv : RingInv s) (hbuf : s.framesBuffered ≠ 0)
    (hs : s.recordsWritten) : t.recordsWritten := by
  intro k hk hheader
  obtain ⟨hpos, hcap⟩ := Cfg.cap_pos_le hinv.cfgWf
  have hdist := h.distance_toNat hinv hbuf
  have hslot : t.fromTail k = s.fromTail (1 + (s.ringByte s.tail).toNat + k) := by
    rw [State.fromTail, h.cfg, h.tail, idxAdd_idxAdd hpos hcap, State.fromTail]
  rw [h.claimed] at hheader
  rw [h.ring, hslot]
  exact hs _ (by omega) (by omega)

/-- An `ACQ` leaves `tail` where it was. -/
theorem setReader_recordsWritten {s : State} (hwf : s.cfg.wf = true) (hs : s.recordsWritten) :
    (s.setReader s.tail s.dropSkip).recordsWritten := by
  have htail := setReader_tail hwf
  refine recordsWritten_of_same_slots (s := s) rfl ?_ (fun k => ?_) hs
  · rw [State.distance, htail]
    rfl
  · rw [State.fromTail, htail]
    rfl

/-- A data byte's claim adds a slot that is written with it, and for a frame's first one the header slot. -/
theorem counted_recordsWritten_of_room {s : State} (hinv : RingInv s) (hfip : s.fip = true) (hcnt : s.byteCnt ≠ 0)
    (h : ¬s.dataDrops) (hs : s.recordsWritten) (v : Byte) : (s.counted v).recordsWritten := by
  intro k hk hheader
  have hdist := counted_distance_toNat hinv hfip hcnt h v
  have hclaimed := counted_claimed hinv hfip hcnt v
  have hframe := claimed_add_dataClaims hfip hcnt
  have hclaims := dataClaims_cases s
  have hslot : s.dataSlot.toNat % s.cfg.cap = s.dataSlot.toNat := Nat.mod_eq_of_lt (dataSlot_lt hinv hfip hcnt)
  have hring : (s.counted v).ring.read? ((s.counted v).fromTail k) = (s.ring.write s.dataSlot.toNat v).read? (s.fromTail k) := by
    rw [counted_of_room h, ← hslot]
    rfl
  rw [hring, read?_write_ne_none_iff]
  by_cases hold : k < s.distance.toNat
  · exact .inr (hs k hold (by omega))
  · obtain rfl : k = s.distance.toNat + (s.dataClaims - 1) := by omega
    exact .inl (fromTail_dataSlot hinv)

theorem counted_recordsWritten {s : State} (hinv : RingInv s) (hfip : s.fip = true) (hcnt : s.byteCnt ≠ 0) (hs : s.recordsWritten)
    (v : Byte) : (s.counted v).recordsWritten := by
  by_cases hdrops : s.dataDrops
  · have hwithout := drop_withoutOldest hinv
    rw [counted_of_drop hinv hdrops]
    exact counted_recordsWritten_of_room (hwithout.ringInv hinv hdrops.1) hfip hcnt (not_dataDrops_drop hinv hdrops)
      (hwithout.recordsWritten hinv hdrops.1 hs) v
  · exact counted_recordsWritten_of_room hinv hfip hcnt hdrops hs v

/-- A `COMMIT` that makes a record writes its header slot. -/
theorem commit_recordsWritten {s : State} (h : ChainInv s) (hs : s.recordsWritten) : (commit s).recordsWritten := by
  obtain ⟨-, e⟩ | ⟨-, hnone, e⟩ | ⟨hfip, -, e⟩ := commit_cases s <;> rw [e]
  · exact hs
  · have hclaimed : s.clearFip.claimed = s.claimed := by rw [claimed_of_no_data hnone, claimed_of_idle (clearFip_fip s)]
    exact recordsWritten_of_same_slots (t := s.clearFip) hclaimed rfl (fun _ => rfl) hs
  · intro k hk _
    obtain ⟨-, -, hstart, -⟩ := h.indices
    refine (read?_write_ne_none_iff s.ring _ _ (s.fromTail k)).mpr ?_
    by_cases hheader : k + s.claimed = s.distance.toNat
    · exact .inl ((fromTail_header h hfip hheader).trans (Nat.mod_eq_of_lt hstart).symm)
    · exact .inr (hs k hk hheader)

theorem openFrame_recordsWritten {s : State} (hidle : s.fip = false) (hs : s.recordsWritten) : s.openFrame.recordsWritten :=
  have hclaimed : s.openFrame.claimed = s.claimed := by
    rw [claimed_of_idle hidle, claimed_of_no_data (s := s.openFrame) Nat.two_pos]
  recordsWritten_of_same_slots hclaimed rfl (fun _ => rfl) hs

theorem setDeclared_recordsWritten {s : State} (hcnt : s.byteCnt = 0) (hs : s.recordsWritten) (v : Byte) :
    (s.setDeclared v).recordsWritten :=
  have hnone : s.byteCnt.toNat < 2 := by rw [hcnt]; decide
  have hclaimed : (s.setDeclared v).claimed = s.claimed := by
    rw [claimed_of_no_data hnone, claimed_of_no_data (s := s.setDeclared v) Nat.one_lt_two]
  recordsWritten_of_same_slots hclaimed rfl (fun _ => rfl) hs

theorem pushBit_recordsWritten {s : State} (hinv : RingInv s) (hfip : s.fip = true) (hs : s.recordsWritten) (b : Bool) :
    (pushBit b s).recordsWritten := by
  have hdeclared (v : Byte) (hcnt : s.byteCnt = 0) : ((s.setShift v 0).setDeclared v).recordsWritten :=
    setDeclared_recordsWritten (s := s.setShift v 0) hcnt hs v
  obtain ⟨acc, n, h⟩ | ⟨v, hcnt, h⟩ | ⟨v, hcnt, -, -, h⟩ | ⟨v, hcnt, h⟩ | ⟨v, hcnt, -, h⟩ := pushBit_cases_of_inv hinv b <;> rw [h]
  · exact hs
  · exact commit_recordsWritten (setDeclared_chainInv (setShift_ringInv hinv v 0).chainInv hcnt v) (hdeclared v hcnt)
  · exact hdeclared v hcnt
  · exact commit_recordsWritten (counted_chainInv hinv hfip hcnt v) (counted_recordsWritten hinv hfip hcnt hs v)
  · exact counted_recordsWritten hinv hfip hcnt hs v

theorem symbolBit_recordsWritten {s : State} (hinv : RingInv s) (hs : s.recordsWritten) (b : Bool) :
    (symbolBit b s).recordsWritten := by
  obtain ⟨hfip, h⟩ | ⟨-, h⟩ := symbolBit_cases b s <;> rw [h]
  · exact pushBit_recordsWritten hinv hfip hs b
  · exact hs

theorem handle_recordsWritten {s : State} (hinv : RingInv s) (hs : s.recordsWritten) (y : Symbol) : (handle y s).recordsWritten :=
  match y with
  | .start => openFrame_recordsWritten (commit_fip s) (commit_recordsWritten hinv.chainInv hs)
  | .one => symbolBit_recordsWritten hinv hs true
  | .zero => symbolBit_recordsWritten hinv hs false
  | .noise => commit_recordsWritten hinv.chainInv hs

/-- After `RST` no byte is between the cursors (R300). -/
theorem clearReceiver_recordsWritten {s : State} (hwf : s.cfg.wf = true) : s.clearReceiver.recordsWritten := by
  have htail : s.clearReceiver.tail = 0 := tail_eq_readIndex (s := s.clearReceiver) rfl (Cfg.cap_pos_le hwf).1
  have hdist : s.clearReceiver.distance = 0 := by
    rw [State.distance, htail]
    exact idxSub_self _ 0
  intro k hk
  rw [hdist] at hk
  exact absurd hk (Nat.not_lt_zero k)

theorem exec_keeps_recordsWritten {i : Instr} {s t : State} (hinv : RingInv s) (hs : s.recordsWritten) (h : exec i s = .next t) :
    t.recordsWritten := by
  cases i with
  | edge u => cases h; exact handle_recordsWritten (setLastEdge_ringInv hinv u) hs _
  | symStart => cases h; exact handle_recordsWritten hinv hs .start
  | symOne => cases h; exact handle_recordsWritten hinv hs .one
  | symZero => cases h; exact handle_recordsWritten hinv hs .zero
  | symNoise => cases h; exact handle_recordsWritten hinv hs .noise
  | nop _ => cases h; exact hs
  | stat _ => cases h; exact hs
  | acq a =>
    obtain ⟨-, e⟩ | ⟨-, e⟩ := exec_acq_cases a s <;> cases e.symm.trans h
    · exact hs
    · exact setReader_recordsWritten hinv.cfgWf hs
  | rdb _ => cases h; exact hs
  | rel a =>
    obtain ⟨-, e⟩ | ⟨-, -, e⟩ | ⟨hseen, hbuf, e⟩ := exec_rel_cases a s <;> cases e.symm.trans h
    · exact hs
    · exact hs
    · exact (setReleased_withoutOldest hinv hseen).recordsWritten hinv hbuf hs
  | tmo a =>
    obtain ⟨-, e⟩ | ⟨-, e⟩ := exec_tmo_cases a s <;> cases e.symm.trans h
    · exact commit_recordsWritten hinv.chainInv hs
    · exact hs
  | rst _ => cases h; exact clearReceiver_recordsWritten hinv.cfgWf

end Machine

open Machine

/-! ## The obligations -/

/-- Settles O41: a step runs at most one operation, and every operation that makes a slot count towards a record writes it. -/
theorem stepKeepsRecordsWritten : Obligations.StepKeepsRecordsWritten := by
  intro s t hinv hs h
  obtain hsame | ⟨i, u, v, hbefore, hexec, hafter⟩ := step_runsOneOperation h
  · exact recordsWritten_of_receiver_eq hsame hs
  · have hu := recordsWritten_of_receiver_eq hbefore hs
    exact recordsWritten_of_receiver_eq hafter (exec_keeps_recordsWritten (ringInv_of_receiver_eq hbefore hinv) hu hexec)

/-- Settles O6: the head of the schedule is performed, and each of the four is turned away where it is asked for. -/
theorem turnedAwayByName : Obligations.TurnedAwayByName := by
  intro s r rest hwf hsched
  rw [step_of_schedule_cons hwf hsched]
  refine ⟨?reset, ?wide, ?get, ?send⟩
  case reset =>
    rintro arg now rfl hget
    exact runWord_of_resetDuringGet (s := s.setSchedule rest) (i := .rst arg) now (decode_cmdWord _ 0xF arg)
      (Option.isSome_iff_ne_none.mpr hget)
  case wide =>
    rintro p w now rfl hwide
    exact runWord_of_overWide (s := s.setSchedule rest) now hwide
  case get =>
    rintro n rfl hget
    exact callGet_of_busy (s := s.setSchedule rest) n hget
  case send =>
    rintro payload t0 rfl htx
    exact callSend_of_busy (s := s.setSchedule rest) Config.chk payload t0 htx

/-- Settles O40: reset has the registers that `RST` leaves, and the chain does not ask which epoch the unwritten bytes belong to. -/
theorem resetHasChainOfRecords : Obligations.ResetHasChainOfRecords := by
  intro c hwf
  have hinv : RingInv { State.reset with cfg := c }.clearReceiver := clearReceiver_ringInv hwf
  exact ⟨hinv.cfgWf, hinv.ringWf, hinv.indices, hinv.chain, hinv.cursor, hinv.counts⟩

/-- Settles O48: `RST`'s word reads back, and its one equation lists the registers. -/
theorem rstClearsReceiver : Obligations.RstClearsReceiver :=
  fun a s => ⟨fun tw => decodeReadsBackEncode tw (.rst a) rfl, exec_rst a s⟩

end Sys2Proof
end
